-- ==== Sys2Proof/Word.lean ====
section
/-! DEFINITION. The word types of the CORE, at the widths the spec fixes (00_scope R7, R13). -/

namespace Sys2Proof

/-- A byte: a V register, a timer, a memory byte, the `nn` field. -/
abbrev Byte := BitVec 8

/-- A 16-bit word: I, PC, a return address, an instruction word. -/
abbrev Word := BitVec 16

/-- Four bits: a register index (`x`, `y`), a family selector, the sprite height `n`. -/
abbrev Nibble := BitVec 4

/-- A 12-bit address field `nnn`. -/
abbrev Addr12 := BitVec 12

end Sys2Proof
end

