-- ==== Sys2Proof/Syntax.lean ====
section
/-! DEFINITION. The instructions: one constructor per row of spec/opcode_table.json, in the table's order (30_encoding R92). -/

namespace Sys2Proof

/-- An instruction with its fields (00_scope R13): `x`, `y` register indexes, `n` a sprite height, `nn` a byte, `nnn` an address. -/
inductive Instr where
  | sys    (nnn : Addr12)
  | cls
  | ret
  | jp     (nnn : Addr12)
  | call   (nnn : Addr12)
  | seImm  (x : Nibble) (nn : Byte)
  | sneImm (x : Nibble) (nn : Byte)
  | seReg  (x y : Nibble)
  | ldImm  (x : Nibble) (nn : Byte)
  | addImm (x : Nibble) (nn : Byte)
  | ldReg  (x y : Nibble)
  | orReg  (x y : Nibble)
  | andReg (x y : Nibble)
  | xorReg (x y : Nibble)
  | addReg (x y : Nibble)
  | sub    (x y : Nibble)
  | shr    (x y : Nibble)
  | subn   (x y : Nibble)
  | shl    (x y : Nibble)
  | sneReg (x y : Nibble)
  | ldI    (nnn : Addr12)
  | jpV0   (nnn : Addr12)
  | rnd    (x : Nibble) (nn : Byte)
  | drw    (x y n : Nibble)
  | skp    (x : Nibble)
  | sknp   (x : Nibble)
  | ldVxDt (x : Nibble)
  | ldVxK  (x : Nibble)
  | ldDtVx (x : Nibble)
  | ldStVx (x : Nibble)
  | addI   (x : Nibble)
  | ldF    (x : Nibble)
  | ldB    (x : Nibble)
  | stRegs (x : Nibble)
  | ldRegs (x : Nibble)
  deriving DecidableEq, Repr

end Sys2Proof
end

