-- ==== Sys2Proof/WellFormed.lean ====
section
/-! DEFINITION. Which instruction terms stand for a word of their own row. -/

namespace Sys2Proof

/-- Every field value is legal (30_encoding R83, R84, R88), but for SYS: its row excludes the words 00E0 and 00EE, which
are CLS and RET (30_encoding R87, R91). -/
def Instr.wf : Instr → Bool
  | .sys nnn => decide (nnn ≠ 0x0E0#12) && decide (nnn ≠ 0x0EE#12)
  | .cls => true
  | .ret => true
  | .jp _ => true
  | .call _ => true
  | .seImm _ _ => true
  | .sneImm _ _ => true
  | .seReg _ _ => true
  | .ldImm _ _ => true
  | .addImm _ _ => true
  | .ldReg _ _ => true
  | .orReg _ _ => true
  | .andReg _ _ => true
  | .xorReg _ _ => true
  | .addReg _ _ => true
  | .sub _ _ => true
  | .shr _ _ => true
  | .subn _ _ => true
  | .shl _ _ => true
  | .sneReg _ _ => true
  | .ldI _ => true
  | .jpV0 _ => true
  | .rnd _ _ => true
  | .drw _ _ _ => true
  | .skp _ => true
  | .sknp _ => true
  | .ldVxDt _ => true
  | .ldVxK _ => true
  | .ldDtVx _ => true
  | .ldStVx _ => true
  | .addI _ => true
  | .ldF _ => true
  | .ldB _ => true
  | .stRegs _ => true
  | .ldRegs _ => true

end Sys2Proof
end

