-- ==== Sys2Proof/Decode.lean ====
section
/-! DEFINITION. The decoder of 30_encoding R85 to R91, total on every word and every list of bytes, and after it the
encoder and the rows of the opcode table. -/

namespace Sys2Proof

/-- Why bytes are no instruction: the families whose selector can be unrecognized (30_encoding R89), and a list that does
not hold a whole word. A step on an unrecognized word takes the unknown-instruction fault (60_exceptions R262). -/
inductive DecodeError where
  /-- 5xyn with n not 0 -/
  | family5
  /-- 8xyn with n in 8 to D or F -/
  | family8
  /-- 9xyn with n not 0 -/
  | family9
  /-- Exnn with nn not 9E or A1 -/
  | familyE
  /-- Fxnn with nn none of the nine selectors -/
  | familyF
  /-- fewer than two bytes -/
  | truncated
  deriving DecidableEq, Repr

/-- The decoder's descriptor (30_encoding R85), with the family selector `op` (00_scope R13). -/
structure Descriptor where
  raw : Word
  op  : Nibble
  x   : Nibble
  y   : Nibble
  n   : Nibble
  nn  : Byte
  nnn : Addr12
  deriving DecidableEq, Repr

/-- 30_encoding R85: every word has a descriptor. -/
def describe (w : Word) : Descriptor where
  raw := w
  op  := w.extractLsb' 12 4
  x   := w.extractLsb' 8 4
  y   := w.extractLsb' 4 4
  n   := w.extractLsb' 0 4
  nn  := w.extractLsb' 0 8
  nnn := w.extractLsb' 0 12

/-- The 0 family: the exact words 00E0 and 00EE before the SYS row (30_encoding R87, R91). -/
def classify0 (nnn : Addr12) : Instr :=
  if nnn = 0x0E0#12 then .cls
  else if nnn = 0x0EE#12 then .ret
  else .sys nnn

/-- The 8 family, by its low nibble (30_encoding R87). -/
def classify8 (x y n : Nibble) : Except DecodeError Instr :=
  if n = 0x0#4 then .ok (.ldReg x y)
  else if n = 0x1#4 then .ok (.orReg x y)
  else if n = 0x2#4 then .ok (.andReg x y)
  else if n = 0x3#4 then .ok (.xorReg x y)
  else if n = 0x4#4 then .ok (.addReg x y)
  else if n = 0x5#4 then .ok (.sub x y)
  else if n = 0x6#4 then .ok (.shr x y)
  else if n = 0x7#4 then .ok (.subn x y)
  else if n = 0xE#4 then .ok (.shl x y)
  else .error .family8

/-- The E family, by its low byte (30_encoding R87). -/
def classifyE (x : Nibble) (nn : Byte) : Except DecodeError Instr :=
  if nn = 0x9E#8 then .ok (.skp x)
  else if nn = 0xA1#8 then .ok (.sknp x)
  else .error .familyE

/-- The F family, by its low byte (30_encoding R87). -/
def classifyF (x : Nibble) (nn : Byte) : Except DecodeError Instr :=
  if nn = 0x07#8 then .ok (.ldVxDt x)
  else if nn = 0x0A#8 then .ok (.ldVxK x)
  else if nn = 0x15#8 then .ok (.ldDtVx x)
  else if nn = 0x18#8 then .ok (.ldStVx x)
  else if nn = 0x1E#8 then .ok (.addI x)
  else if nn = 0x29#8 then .ok (.ldF x)
  else if nn = 0x33#8 then .ok (.ldB x)
  else if nn = 0x55#8 then .ok (.stRegs x)
  else if nn = 0x65#8 then .ok (.ldRegs x)
  else .error .familyF

/-- The classification by `op` and then by the family's selector (30_encoding R86, R87, R91). -/
def classify (d : Descriptor) : Except DecodeError Instr :=
  if d.op = 0x0#4 then .ok (classify0 d.nnn)
  else if d.op = 0x1#4 then .ok (.jp d.nnn)
  else if d.op = 0x2#4 then .ok (.call d.nnn)
  else if d.op = 0x3#4 then .ok (.seImm d.x d.nn)
  else if d.op = 0x4#4 then .ok (.sneImm d.x d.nn)
  else if d.op = 0x5#4 then (if d.n = 0x0#4 then .ok (.seReg d.x d.y) else .error .family5)
  else if d.op = 0x6#4 then .ok (.ldImm d.x d.nn)
  else if d.op = 0x7#4 then .ok (.addImm d.x d.nn)
  else if d.op = 0x8#4 then classify8 d.x d.y d.n
  else if d.op = 0x9#4 then (if d.n = 0x0#4 then .ok (.sneReg d.x d.y) else .error .family9)
  else if d.op = 0xA#4 then .ok (.ldI d.nnn)
  else if d.op = 0xB#4 then .ok (.jpV0 d.nnn)
  else if d.op = 0xC#4 then .ok (.rnd d.x d.nn)
  else if d.op = 0xD#4 then .ok (.drw d.x d.y d.n)
  else if d.op = 0xE#4 then classifyE d.x d.nn
  else classifyF d.x d.nn

/-- The instruction a word stands for, or the name of the family that does not recognize it. -/
def decodeWord (w : Word) : Except DecodeError Instr :=
  classify (describe w)

/-- Two bytes as a word: the byte at the lower address is bits 15:8 (20_memory R64). -/
def wordOfBytes (hi lo : Byte) : Word :=
  hi ++ lo

/-- A word as two bytes in address order (20_memory R64). -/
def bytesOfWord (w : Word) : List Byte :=
  [w.extractLsb' 8 8, w.extractLsb' 0 8]

/-- Decode the first instruction of a list of bytes, with the bytes after it (30_encoding R81). -/
def decode : List Byte → Except DecodeError (Instr × List Byte)
  | hi :: lo :: rest =>
    match decodeWord (wordOfBytes hi lo) with
    | .ok i => .ok (i, rest)
    | .error e => .error e
  | [_] => .error .truncated
  | [] => .error .truncated

/-- The word of a table row's bits: every row is one 16-bit word, and bits above `nbits` are 0. -/
def tableWord (nbits w : Nat) : Word :=
  BitVec.ofNat 16 (w % 2 ^ nbits)

/-- What the decoder reads from the bytes of a table row's word. -/
def decodeTableWord (nbits w : Nat) : Option Instr :=
  match decode (bytesOfWord (tableWord nbits w)) with
  | .ok (i, _) => some i
  | .error _ => none

/-- The word of an instruction, from the layouts of 30_encoding R82 and the selectors of R86 and R87. -/
def encode : Instr → Word
  | .sys nnn     => 0x0#4 ++ nnn
  | .cls         => 0x00E0#16
  | .ret         => 0x00EE#16
  | .jp nnn      => 0x1#4 ++ nnn
  | .call nnn    => 0x2#4 ++ nnn
  | .seImm x nn  => 0x3#4 ++ x ++ nn
  | .sneImm x nn => 0x4#4 ++ x ++ nn
  | .seReg x y   => 0x5#4 ++ x ++ y ++ 0x0#4
  | .ldImm x nn  => 0x6#4 ++ x ++ nn
  | .addImm x nn => 0x7#4 ++ x ++ nn
  | .ldReg x y   => 0x8#4 ++ x ++ y ++ 0x0#4
  | .orReg x y   => 0x8#4 ++ x ++ y ++ 0x1#4
  | .andReg x y  => 0x8#4 ++ x ++ y ++ 0x2#4
  | .xorReg x y  => 0x8#4 ++ x ++ y ++ 0x3#4
  | .addReg x y  => 0x8#4 ++ x ++ y ++ 0x4#4
  | .sub x y     => 0x8#4 ++ x ++ y ++ 0x5#4
  | .shr x y     => 0x8#4 ++ x ++ y ++ 0x6#4
  | .subn x y    => 0x8#4 ++ x ++ y ++ 0x7#4
  | .shl x y     => 0x8#4 ++ x ++ y ++ 0xE#4
  | .sneReg x y  => 0x9#4 ++ x ++ y ++ 0x0#4
  | .ldI nnn     => 0xA#4 ++ nnn
  | .jpV0 nnn    => 0xB#4 ++ nnn
  | .rnd x nn    => 0xC#4 ++ x ++ nn
  | .drw x y n   => 0xD#4 ++ x ++ y ++ n
  | .skp x       => 0xE#4 ++ x ++ 0x9E#8
  | .sknp x      => 0xE#4 ++ x ++ 0xA1#8
  | .ldVxDt x    => 0xF#4 ++ x ++ 0x07#8
  | .ldVxK x     => 0xF#4 ++ x ++ 0x0A#8
  | .ldDtVx x    => 0xF#4 ++ x ++ 0x15#8
  | .ldStVx x    => 0xF#4 ++ x ++ 0x18#8
  | .addI x      => 0xF#4 ++ x ++ 0x1E#8
  | .ldF x       => 0xF#4 ++ x ++ 0x29#8
  | .ldB x       => 0xF#4 ++ x ++ 0x33#8
  | .stRegs x    => 0xF#4 ++ x ++ 0x55#8
  | .ldRegs x    => 0xF#4 ++ x ++ 0x65#8

/-- A row of spec/opcode_table.json: the bits its mask selects are those of its pattern. -/
structure OpcodeRow where
  mask    : Word
  pattern : Word
  deriving DecidableEq, Repr

/-- The row of an instruction, with the table's own mask and match. -/
def Instr.row : Instr → OpcodeRow
  | .sys _      => ⟨0xF000, 0x0000⟩
  | .cls        => ⟨0xFFFF, 0x00E0⟩
  | .ret        => ⟨0xFFFF, 0x00EE⟩
  | .jp _       => ⟨0xF000, 0x1000⟩
  | .call _     => ⟨0xF000, 0x2000⟩
  | .seImm _ _  => ⟨0xF000, 0x3000⟩
  | .sneImm _ _ => ⟨0xF000, 0x4000⟩
  | .seReg _ _  => ⟨0xF00F, 0x5000⟩
  | .ldImm _ _  => ⟨0xF000, 0x6000⟩
  | .addImm _ _ => ⟨0xF000, 0x7000⟩
  | .ldReg _ _  => ⟨0xF00F, 0x8000⟩
  | .orReg _ _  => ⟨0xF00F, 0x8001⟩
  | .andReg _ _ => ⟨0xF00F, 0x8002⟩
  | .xorReg _ _ => ⟨0xF00F, 0x8003⟩
  | .addReg _ _ => ⟨0xF00F, 0x8004⟩
  | .sub _ _    => ⟨0xF00F, 0x8005⟩
  | .shr _ _    => ⟨0xF00F, 0x8006⟩
  | .subn _ _   => ⟨0xF00F, 0x8007⟩
  | .shl _ _    => ⟨0xF00F, 0x800E⟩
  | .sneReg _ _ => ⟨0xF00F, 0x9000⟩
  | .ldI _      => ⟨0xF000, 0xA000⟩
  | .jpV0 _     => ⟨0xF000, 0xB000⟩
  | .rnd _ _    => ⟨0xF000, 0xC000⟩
  | .drw _ _ _  => ⟨0xF000, 0xD000⟩
  | .skp _      => ⟨0xF0FF, 0xE09E⟩
  | .sknp _     => ⟨0xF0FF, 0xE0A1⟩
  | .ldVxDt _   => ⟨0xF0FF, 0xF007⟩
  | .ldVxK _    => ⟨0xF0FF, 0xF00A⟩
  | .ldDtVx _   => ⟨0xF0FF, 0xF015⟩
  | .ldStVx _   => ⟨0xF0FF, 0xF018⟩
  | .addI _     => ⟨0xF0FF, 0xF01E⟩
  | .ldF _      => ⟨0xF0FF, 0xF029⟩
  | .ldB _      => ⟨0xF0FF, 0xF033⟩
  | .stRegs _   => ⟨0xF0FF, 0xF055⟩
  | .ldRegs _   => ⟨0xF0FF, 0xF065⟩

/-- The table's rows, in the table's order. SYS has the words of its mask that CLS and RET do not take (30_encoding R91). -/
def opcodeRows : List OpcodeRow :=
  [(Instr.sys 0).row, Instr.cls.row, Instr.ret.row, (Instr.jp 0).row, (Instr.call 0).row, (Instr.seImm 0 0).row,
   (Instr.sneImm 0 0).row, (Instr.seReg 0 0).row, (Instr.ldImm 0 0).row, (Instr.addImm 0 0).row]
  ++ [(Instr.ldReg 0 0).row, (Instr.orReg 0 0).row, (Instr.andReg 0 0).row, (Instr.xorReg 0 0).row,
   (Instr.addReg 0 0).row, (Instr.sub 0 0).row, (Instr.shr 0 0).row, (Instr.subn 0 0).row, (Instr.shl 0 0).row]
  ++ [(Instr.sneReg 0 0).row, (Instr.ldI 0).row, (Instr.jpV0 0).row, (Instr.rnd 0 0).row, (Instr.drw 0 0 0).row,
   (Instr.skp 0).row, (Instr.sknp 0).row]
  ++ [(Instr.ldVxDt 0).row, (Instr.ldVxK 0).row, (Instr.ldDtVx 0).row, (Instr.ldStVx 0).row, (Instr.addI 0).row,
   (Instr.ldF 0).row, (Instr.ldB 0).row, (Instr.stRegs 0).row, (Instr.ldRegs 0).row]

/-- Whether a word is one of R89's unrecognized words: a SYS word or a word of no row (30_encoding R89). -/
def unrecognized (w : Word) : Bool :=
  match decodeWord w with
  | .ok (.sys _) => true
  | .ok _ => false
  | .error _ => true

end Sys2Proof
end

