-- ==== Sys2Proof/Config.lean ====
section
/-! DEFINITION. What an implementation fixes (00_scope R7), the types of the open parameters (R8), and the free value of Cxnn. -/

namespace Sys2Proof

/-- `MEM_SIZE` (00_scope R7). -/
abbrev Config.memSize : Nat := 4096

/-- `LOAD_BASE`, where a program image is loaded and where PC starts (00_scope R7, 10_state R38). -/
abbrev Config.loadBase : Nat := 0x200

/-- `MAX_IMAGE` (00_scope R7). -/
abbrev Config.maxImage : Nat := 3584

/-- One glyph: five bytes, top row first (10_state R33). -/
abbrev Glyph := Vector Byte 5

/-- The parameter `FONT` (00_scope R8): sixteen glyphs. -/
abbrev Font := Vector Glyph 16

/-- The parameter `SHIFT_SOURCE` (00_scope R8, D7): which register 8xy6 and 8xyE shift. -/
inductive ShiftSource where
  | vx
  | vy
  deriving DecidableEq, Repr

/-- The sixteen key latches (10_state R30). -/
abbrev KeyVector := Vector Bool 16

/-- The parameter `KEYWAIT_SELECT` (00_scope R8, D11) as plain data: a finite table from key vectors to key indexes.
A vector the table does not list selects its lowest pressed key, so the empty table is the default, and every function
on the 65536 key vectors is some table. -/
abbrev KeyWaitTable := List (KeyVector × Fin 16)

/-- The open parameters of one machine (00_scope R8), held in State as data that no transition changes, so that a
statement about every state is a statement about every choice of them. -/
structure Params where
  font        : Font
  shiftSource : ShiftSource
  keywait     : KeyWaitTable
  deriving DecidableEq, Repr

/-- FREE VALUE (log entry 1): the byte of the n-th draw of Cxnn (00_scope R8 `rand`, 43_alu R194, D12). It has no body,
so nothing can be proved of its value. -/
opaque Config.rand : Nat → Byte

end Sys2Proof
end

