-- ==== Sys2Proof/Machine/Font.lean ====
section
/-! DEFINITION. The default of the parameter FONT, the table of 10_state R33, and the byte a font holds at an address. -/

namespace Sys2Proof.Machine

/-- The default `FONT` (10_state R33, 00_scope R8; log entry 2): glyph g is the g-th row of the table. -/
def conventionalFont : Font :=
  #v[#v[0xF0, 0x90, 0x90, 0x90, 0xF0],
     #v[0x20, 0x60, 0x20, 0x20, 0x70],
     #v[0xF0, 0x10, 0xF0, 0x80, 0xF0],
     #v[0xF0, 0x10, 0xF0, 0x10, 0xF0],
     #v[0x90, 0x90, 0xF0, 0x10, 0x10],
     #v[0xF0, 0x80, 0xF0, 0x10, 0xF0],
     #v[0xF0, 0x80, 0xF0, 0x90, 0xF0],
     #v[0xF0, 0x10, 0x20, 0x40, 0x40],
     #v[0xF0, 0x90, 0xF0, 0x90, 0xF0],
     #v[0xF0, 0x90, 0xF0, 0x10, 0xF0],
     #v[0xF0, 0x90, 0xF0, 0x90, 0x90],
     #v[0xE0, 0x90, 0xE0, 0x90, 0xE0],
     #v[0xF0, 0x80, 0x80, 0x80, 0xF0],
     #v[0xE0, 0x90, 0x90, 0x90, 0xE0],
     #v[0xF0, 0x80, 0xF0, 0x80, 0xF0],
     #v[0xF0, 0x80, 0xF0, 0x80, 0x80]]

/-- Row `r` of glyph `g` of a font. -/
def glyphByte (font : Font) (g : Fin 16) (r : Fin 5) : Byte :=
  (font.get g).get r

/-- What memory holds at initialization (10_state R33, R38): glyph g at 5g to 5g + 4, and 0x00 above the font. This is
what an unlisted address of memory reads as. -/
def initialByte (font : Font) (a : Nat) : Byte :=
  if h : a < 80 then glyphByte font ⟨a / 5, by omega⟩ ⟨a % 5, by omega⟩ else 0x00

end Sys2Proof.Machine
end

