-- ==== Sys2Proof/Machine/State.lean ====
section
/-! DEFINITION. The state record of 10_state R20 as plain data, the model's own fields beside it, and the state after reset. -/

namespace Sys2Proof.Machine

/-- The outcome `fault` of a step. NO CONSTRUCTOR: the execution faults of 60_exceptions R261 are taken, as next states
(R263), no access can miss memory (20_memory R61), and no register is ever without a value (10_state R37). So nothing
raises one. Safe: an outcome that cannot occur hides nothing. -/
inductive Fault where
  deriving DecidableEq, Repr

/-- The outcome `refused` of a step. -/
inductive Refusal where
  /-- Raised by an arm of exec whose instruction has no meaning yet. No arm is such, so no instruction raises it. Safe. -/
  | notModelled (mnemonic : String)
  deriving DecidableEq, Repr

/-- What a meaning answers. -/
abbrev Result (σ : Type) := Host.Outcome σ Fault Refusal

/-- The execution faults (10_state R35, 60_exceptions R261). -/
inductive FaultKind where
  /-- CALL with SP = 16 -/
  | stackOverflow
  /-- RET with SP = 0 -/
  | stackUnderflow
  /-- a word no row recognizes, or a SYS word -/
  | unknownInstruction
  deriving DecidableEq, Repr

/-- The fault record `(kind, pc, word)` (10_state R35). -/
structure FaultRecord where
  kind : FaultKind
  pc   : Word
  word : Word
  deriving DecidableEq, Repr

/-- Memory as address and byte pairs, in the canonical form `Memory.wf` (20_memory R60). -/
abbrev Memory := List Host.Cell

/-- One display row: cell (x, y) is bit x of row y. -/
abbrev DisplayRow := BitVec 64

/-- The display: 32 rows of 64 one-bit cells (10_state R22). -/
abbrev Display := Vector DisplayRow 32

/-- The CORE's state (10_state R20), and the model's own `draws` and `params` (log entries 1 to 4). -/
structure State where
  /-- 4096 bytes (R21) -/
  memory        : Memory
  /-- 2048 cells (R22) -/
  display       : Display
  /-- the dirty flag (R23) -/
  redrawPending : Bool
  /-- V0 to VF (R24) -/
  v             : Vector Byte 16
  /-- the index register I (R26) -/
  i             : Word
  /-- the program counter (R27) -/
  pc            : Word
  /-- the saved return addresses (R28) -/
  stack         : Vector Word 16
  /-- the count of stack entries in use (R28) -/
  sp            : Fin 17
  /-- the delay timer (R29) -/
  dt            : Byte
  /-- the sound timer (R29) -/
  st            : Byte
  /-- the key latches (R30) -/
  key           : KeyVector
  /-- control flag (R31) -/
  running       : Bool
  /-- control flag (R32) -/
  halted        : Bool
  /-- completed instructions (R34) -/
  cycleCount    : BitVec 64
  /-- the last execution fault (R35) -/
  fault         : Option FaultRecord
  /-- MODEL'S OWN: how many bytes Cxnn has drawn (log entry 1) -/
  draws         : Nat
  /-- MODEL'S OWN: the open parameters of R8, which no transition changes (log entries 2 to 4) -/
  params        : Params
  deriving DecidableEq, Repr

/-- The defaults of the open parameters (00_scope R8; log entries 2 to 4). -/
def defaultParams : Params where
  font := conventionalFont
  shiftSource := .vx
  keywait := []

/-- The initialized state (10_state R38), which reset returns to (70_reset_and_hazards R311). -/
def State.reset : State where
  memory := []
  display := Vector.replicate 32 0#64
  redrawPending := false
  v := Vector.replicate 16 0x00#8
  i := 0x0000#16
  pc := 0x0200#16
  stack := Vector.replicate 16 0x0000#16
  sp := 0
  dt := 0x00#8
  st := 0x00#8
  key := Vector.replicate 16 false
  running := false
  halted := false
  cycleCount := 0#64
  fault := none
  draws := 0
  params := defaultParams

end Sys2Proof.Machine
end

