-- ==== Sys2Proof/Machine/Ops.lean ====
section
/-! DEFINITION. The named operations over the state: the primitives of 00_scope R11, the PC outcomes of 40_execution_cycle
R114 to R117, and taking a fault (60_exceptions R263). -/

namespace Sys2Proof.Machine

/-! ## Memory -/

/-- The reduction of an address the core computes (20_memory R61). -/
def eff (a : Nat) : Nat :=
  a % Config.memSize

/-- The byte memory holds at an address: the listed one, else the initial one (10_state R38). -/
def Memory.read (font : Font) : Memory → Nat → Byte
  | [], a => initialByte font a
  | (b, v) :: rest, a => if a = b then v else Memory.read font rest a

/-- Put an entry at its place in a rising list. -/
def Memory.insert (a : Nat) (v : Byte) : Memory → Memory
  | [] => [(a, v)]
  | (b, u) :: rest => if a < b then (a, v) :: (b, u) :: rest else (b, u) :: Memory.insert a v rest

/-- The list without the entries of an address. -/
def Memory.erase (m : Memory) (a : Nat) : Memory :=
  m.filter fun c => c.1 ≠ a

/-- Store a byte: an entry equal to the initial byte is not listed. -/
def Memory.write (font : Font) (m : Memory) (a : Nat) (v : Byte) : Memory :=
  if v = initialByte font a then m.erase a else Memory.insert a v (m.erase a)

/-- The canonical form: addresses strictly rising and below 4096, no entry equal to the initial byte. -/
abbrev Memory.wf (font : Font) (m : Memory) : Prop :=
  m.Pairwise (fun c d => c.1 < d.1) ∧ ∀ c ∈ m, c.1 < Config.memSize ∧ c.2 ≠ initialByte font c.1

/-- The byte at an address as it stands, with no reduction: the host's access (20_memory R63). -/
def State.byteAt (s : State) (a : Nat) : Byte :=
  Memory.read s.params.font s.memory a

/-- Store a byte at an address as it stands, with no reduction. -/
def State.setByte (s : State) (a : Nat) (v : Byte) : State :=
  { s with memory := Memory.write s.params.font s.memory a v }

/-- `MemRead(a, 1)` (00_scope R11, 20_memory R61). -/
def State.memRead (s : State) (a : Nat) : Byte :=
  s.byteAt (eff a)

/-- `MemWrite(a, 1, v)` (00_scope R11, 20_memory R61). -/
def State.memWrite (s : State) (a : Nat) (v : Byte) : State :=
  s.setByte (eff a) v

/-- `MemRead(PC, 2)`: the word the next step fetches, big-endian, each address reduced (20_memory R64, 40_execution_cycle R111). -/
def State.fetchWord (s : State) : Word :=
  wordOfBytes (s.memRead s.pc.toNat) (s.memRead (s.pc.toNat + 1))

/-! ## Registers -/

/-- Read `V[x]` (10_state R24). -/
def State.readV (s : State) (x : Nibble) : Byte :=
  s.v[x.toNat]'x.isLt

/-- Write `V[x]` (10_state R24). -/
def State.writeV (s : State) (x : Nibble) (b : Byte) : State :=
  { s with v := s.v.set x.toNat b x.isLt }

/-- The index of VF (10_state R25). -/
abbrev vf : Nibble := 0xF#4

/-- Write I (10_state R26). -/
def State.setI (s : State) (w : Word) : State :=
  { s with i := w }

/-- Write PC (10_state R27). -/
def State.setPc (s : State) (w : Word) : State :=
  { s with pc := w }

/-- Write the delay timer (10_state R29). -/
def State.setDt (s : State) (b : Byte) : State :=
  { s with dt := b }

/-- Write the sound timer (10_state R29). -/
def State.setSt (s : State) (b : Byte) : State :=
  { s with st := b }

/-! ## The random draw -/

/-- `draw_rand()`: the byte the environment supplies for this draw (00_scope R11; log entry 1). -/
def State.randByte (s : State) : Byte :=
  Config.rand s.draws

/-- Count a draw, so that the next one is another free byte (log entry 1). -/
def State.countDraw (s : State) : State :=
  { s with draws := s.draws + 1 }

/-! ## Display -/

/-- `DISP[p]` for p = y*64 + x; false past the last cell (10_state R22, 60_exceptions R301). -/
def Display.cell (d : Display) (p : Nat) : Bool :=
  (d[p / 64]?.getD 0#64).getLsbD (p % 64)

/-- `DISP[p] <- not DISP[p]`. -/
def Display.toggle (d : Display) (p : Nat) : Display :=
  if h : p / 64 < 32 then d.set (p / 64) (d[p / 64] ^^^ (1#64 <<< (p % 64))) else d

/-- Every cell false. -/
def Display.clear : Display :=
  Vector.replicate 32 0#64

/-- Replace the display. -/
def State.setDisplay (s : State) (d : Display) : State :=
  { s with display := d }

/-- `redraw_pending <- true` (10_state R23). -/
def State.markRedraw (s : State) : State :=
  { s with redrawPending := true }

/-! ## Keys -/

/-- `pressed(k)`: the whole byte is the index, and 16 or more reads no latch (42_skips R164). -/
def State.pressed (s : State) (k : Byte) : Bool :=
  if h : k.toNat < 16 then s.key[k.toNat] else false

/-- The least pressed key, if any key is pressed (46_timers_keys R242). -/
def lowestKey (keys : KeyVector) : Option (Fin 16) :=
  (List.finRange 16).find? fun k => keys.get k

/-- `KEYWAIT_SELECT` (00_scope R8, 46_timers_keys R242): none when no key is pressed; else the table's choice, or the
lowest pressed key where the table lists none (log entry 4). -/
def keySelect (table : KeyWaitTable) (keys : KeyVector) : Option (Fin 16) :=
  match lowestKey keys with
  | none => none
  | some k => some ((table.lookup keys).getD k)

/-! ## The call stack -/

/-- Push a return address, or none when sixteen entries are in use (41_control_flow R134). -/
def State.push (s : State) (ret : Word) : Option State :=
  if h : s.sp.val < 16 then
    some { s with stack := s.stack.set s.sp.val ret h, sp := ⟨s.sp.val + 1, Nat.succ_lt_succ h⟩ }
  else none

/-- Pop the most recent return address, or none when no entry is in use; the entry keeps its value (41_control_flow R132,
10_state R28). -/
def State.pop (s : State) : Option (Word × State) :=
  if h : 0 < s.sp.val then
    some (s.stack[s.sp.val - 1]'(by omega), { s with sp := ⟨s.sp.val - 1, by omega⟩ })
  else none

/-! ## The PC outcomes -/

/-- Base advance (40_execution_cycle R114). -/
def State.advance (s : State) : State :=
  s.setPc (s.pc + 2)

/-- Skip advance (40_execution_cycle R115). -/
def State.skip (s : State) : State :=
  s.setPc (s.pc + 4)

/-- Skip when the condition holds, else the base advance (40_execution_cycle R115, 42_skips R150). -/
def State.skipIf (s : State) (c : Bool) : State :=
  if c then s.skip else s.advance

/-- Stay: PC unchanged (40_execution_cycle R116). -/
def State.stay (s : State) : State :=
  s

/-- Set PC (40_execution_cycle R117). -/
def State.jumpTo (s : State) (target : Word) : State :=
  s.setPc target

/-! ## Faults -/

/-- The cause code of a fault (60_exceptions R261). -/
def FaultKind.code : FaultKind → Nat
  | .stackOverflow => 1
  | .stackUnderflow => 2
  | .unknownInstruction => 3

/-- Taking a fault (60_exceptions R263, 40_execution_cycle R119): the three writes, and PC left at the instruction. There
is no return from a fault but reset (60_exceptions R266). -/
def State.enterFault (s : State) (kind : FaultKind) (w : Word) : State :=
  { s with halted := true, running := false, fault := some ⟨kind, s.pc, w⟩ }

/-- Count a completed instruction (40_execution_cycle R118). -/
def State.countCycle (s : State) : State :=
  { s with cycleCount := s.cycleCount + 1 }

end Sys2Proof.Machine
end

