-- ==== Sys2Proof/Machine/Flags.lean ====
section
/-! DEFINITION. Every value the instruction set gives VF as a flag (43_alu R196, 45_display R222), and the order in which
a result and its flag are written (43_alu R192, 00_scope R12). -/

namespace Sys2Proof.Machine

/-- A Boolean as a number: true is 1 and false is 0 (00_scope R10). -/
def flagOf (b : Bool) : Byte :=
  if b then 1#8 else 0#8

/-- The carry of ADD: the sum passes 255 (43_alu R182, R196). -/
def carryFlag (vx vy : Byte) : Byte :=
  flagOf (decide (255 < vx.toNat + vy.toNat))

/-- NOT-borrow of SUB and SUBN: the minuend is at least the subtrahend (43_alu R184, R188, R196). -/
def notBorrowFlag (minuend subtrahend : Byte) : Byte :=
  flagOf (decide (subtrahend.toNat ≤ minuend.toNat))

/-- The bit SHR shifts out (43_alu R186). -/
def shiftedOutLow (src : Byte) : Byte :=
  src &&& 1#8

/-- The bit SHL shifts out (43_alu R190). -/
def shiftedOutHigh (src : Byte) : Byte :=
  src >>> 7

/-- The flag of the bitwise operations, always 0 (43_alu R176). -/
def bitwiseFlag : Byte :=
  0#8

/-- Write the result and then the flag, so that VF ends as the flag when x = F (43_alu R192). -/
def State.writeResult (s : State) (x : Nibble) (result flag : Byte) : State :=
  (s.writeV x result).writeV vf flag

end Sys2Proof.Machine
end

