-- ==== Sys2Proof/Machine/Operands.lean ====
section
/-! DEFINITION. Every operand form of the instruction set (30_encoding R83, R84; 44_index_memory R214; 43_alu R186). -/

namespace Sys2Proof.Machine

/-- `zext_16(nnn)` (30_encoding R83). -/
def addrOperand (nnn : Addr12) : Word :=
  nnn.zeroExtend 16

/-- A byte widened to 16 bits, as Bnnn and Fx1E add it (41_control_flow R138, 44_index_memory R202). -/
def byteOperand (b : Byte) : Word :=
  b.zeroExtend 16

/-- The address of offset k through I, before the reduction of every access (44_index_memory R214). -/
def indexAddr (i0 : Word) (k : Nat) : Nat :=
  i0.toNat + k

/-- The register number k of a block V0 to Vx (30_encoding R84). -/
def blockReg (k : Nat) : Nibble :=
  BitVec.ofNat 4 k

/-- How many registers the block V0 to Vx holds. -/
def blockLength (x : Nibble) : Nat :=
  x.toNat + 1

/-- The byte 8xy6 and 8xyE shift, by the parameter SHIFT_SOURCE (43_alu R186, R190; log entry 3). -/
def State.shiftOperand (s : State) (x y : Nibble) : Byte :=
  match s.params.shiftSource with
  | .vx => s.readV x
  | .vy => s.readV y

/-- Bit `7 - col` of a sprite byte: column 0 is bit 7 (45_display R226). -/
def spriteBit (b : Byte) (col : Nat) : Bool :=
  b.getLsbD (7 - col)

/-- The cell of sprite row `row` and column `col` drawn at (vx, vy), each coordinate wrapped on its own (45_display R222). -/
def spriteCell (vx vy : Byte) (row col : Nat) : Nat :=
  (vy.toNat + row) % 32 * 64 + (vx.toNat + col) % 64

end Sys2Proof.Machine
end

