-- ==== Sys2Proof/Machine/Alu.lean ====
section
/-! DEFINITION. Register loads and arithmetic: LD, ADD, the 8-family, RND (43_alu). -/

namespace Sys2Proof.Machine

/-- LD Vx, nn (43_alu R170). -/
def execLdImm (x : Nibble) (nn : Byte) (s : State) : Result State :=
  .next (s.writeV x nn).advance

/-- ADD Vx, nn (43_alu R172): wraps at 256, and VF is not written as a flag. -/
def execAddImm (x : Nibble) (nn : Byte) (s : State) : Result State :=
  .next (s.writeV x (s.readV x + nn)).advance

/-- LD Vx, Vy (43_alu R174). -/
def execLdReg (x y : Nibble) (s : State) : Result State :=
  .next (s.writeV x (s.readV y)).advance

/-- OR Vx, Vy (43_alu R176). -/
def execOr (x y : Nibble) (s : State) : Result State :=
  .next (s.writeResult x (s.readV x ||| s.readV y) bitwiseFlag).advance

/-- AND Vx, Vy (43_alu R178). -/
def execAnd (x y : Nibble) (s : State) : Result State :=
  .next (s.writeResult x (s.readV x &&& s.readV y) bitwiseFlag).advance

/-- XOR Vx, Vy (43_alu R180). -/
def execXor (x y : Nibble) (s : State) : Result State :=
  .next (s.writeResult x (s.readV x ^^^ s.readV y) bitwiseFlag).advance

/-- ADD Vx, Vy (43_alu R182). -/
def execAddReg (x y : Nibble) (s : State) : Result State :=
  .next (s.writeResult x (s.readV x + s.readV y) (carryFlag (s.readV x) (s.readV y))).advance

/-- SUB Vx, Vy (43_alu R184). -/
def execSub (x y : Nibble) (s : State) : Result State :=
  .next (s.writeResult x (s.readV x - s.readV y) (notBorrowFlag (s.readV x) (s.readV y))).advance

/-- SHR Vx, Vy (43_alu R186). -/
def execShr (x y : Nibble) (s : State) : Result State :=
  .next (s.writeResult x (s.shiftOperand x y >>> 1) (shiftedOutLow (s.shiftOperand x y))).advance

/-- SUBN Vx, Vy (43_alu R188). -/
def execSubn (x y : Nibble) (s : State) : Result State :=
  .next (s.writeResult x (s.readV y - s.readV x) (notBorrowFlag (s.readV y) (s.readV x))).advance

/-- SHL Vx, Vy (43_alu R190). -/
def execShl (x y : Nibble) (s : State) : Result State :=
  .next (s.writeResult x (s.shiftOperand x y <<< 1) (shiftedOutHigh (s.shiftOperand x y))).advance

/-- RND Vx, nn (43_alu R194): a free byte under the mask, a fresh one each execution (log entry 1). -/
def execRnd (x : Nibble) (nn : Byte) (s : State) : Result State :=
  .next (s.countDraw.writeV x (s.randByte &&& nn)).advance

end Sys2Proof.Machine
end

