-- ==== Sys2Proof/Machine/Control.lean ====
section
/-! DEFINITION. Control transfer: SYS, RET, JP, CALL, JP V0 (41_control_flow). -/

namespace Sys2Proof.Machine

/-- SYS nnn (41_control_flow R131): the unknown-instruction fault, always. -/
def execSys (nnn : Addr12) (s : State) : Result State :=
  .next (s.enterFault .unknownInstruction (encode (.sys nnn)))

/-- RET (41_control_flow R132). -/
def execRet (s : State) : Result State :=
  match s.pop with
  | some (target, t) => .next (t.jumpTo target)
  | none => .next (s.enterFault .stackUnderflow (encode .ret))

/-- JP nnn (41_control_flow R133). -/
def execJp (nnn : Addr12) (s : State) : Result State :=
  .next (s.jumpTo (addrOperand nnn))

/-- CALL nnn (41_control_flow R134): PC is the address of the CALL itself. -/
def execCall (nnn : Addr12) (s : State) : Result State :=
  match s.push (s.pc + 2) with
  | some t => .next (t.jumpTo (addrOperand nnn))
  | none => .next (s.enterFault .stackOverflow (encode (.call nnn)))

/-- JP V0, nnn (41_control_flow R138): the sum of 16 bits, not masked. -/
def execJpV0 (nnn : Addr12) (s : State) : Result State :=
  .next (s.jumpTo (addrOperand nnn + byteOperand (s.readV 0x0#4)))

end Sys2Proof.Machine
end

