-- ==== Sys2Proof/Machine/Draw.lean ====
section
/-! DEFINITION. The display instructions: CLS and DRW (45_display). -/

namespace Sys2Proof.Machine

/-- CLS (45_display R220). -/
def execCls (s : State) : Result State :=
  .next (s.setDisplay Display.clear).markRedraw.advance

/-- What drawing has made so far: the display, and whether a lit cell was met. -/
structure Canvas where
  display  : Display
  collided : Bool
  deriving DecidableEq, Repr

/-- One sprite bit: a set bit toggles its cell and collides when the cell was on before (45_display R222). -/
def Canvas.drawBit (c : Canvas) (bit : Bool) (p : Nat) : Canvas :=
  if bit then { display := c.display.toggle p, collided := c.collided || c.display.cell p } else c

/-- The first `k` columns of row `row` with byte `b`, drawn at (vx, vy) (45_display R222). -/
def Canvas.drawCols (c : Canvas) (vx vy : Byte) (row : Nat) (b : Byte) : Nat → Canvas
  | 0 => c
  | k + 1 => (c.drawCols vx vy row b k).drawBit (spriteBit b k) (spriteCell vx vy row k)

/-- The first `k` rows of the sprite whose row r is the byte `rows r` (45_display R222). -/
def Canvas.drawRows (c : Canvas) (vx vy : Byte) (rows : Nat → Byte) : Nat → Canvas
  | 0 => c
  | k + 1 => (c.drawRows vx vy rows k).drawCols vx vy k (rows k) 8

/-- Row `row` of the sprite I points at (45_display R226). -/
def State.spriteRow (s : State) (row : Nat) : Byte :=
  s.memRead (indexAddr s.i row)

/-- The display and the collision after the sprite of `n` rows at (Vx, Vy). -/
def State.drawSprite (s : State) (x y n : Nibble) : Canvas :=
  Canvas.drawRows ⟨s.display, false⟩ (s.readV x) (s.readV y) s.spriteRow n.toNat

/-- DRW Vx, Vy, n (45_display R222). -/
def execDrw (x y n : Nibble) (s : State) : Result State :=
  .next (((s.setDisplay (s.drawSprite x y n).display).writeV vf
    (flagOf (s.drawSprite x y n).collided)).markRedraw).advance

end Sys2Proof.Machine
end

