-- ==== Sys2Proof/Machine/IndexMemory.lean ====
section
/-! DEFINITION. The index register and the memory transfers: LD I, ADD I, LD F, LD B, LD [I], LD Vx,[I] (44_index_memory). -/

namespace Sys2Proof.Machine

/-- LD I, nnn (44_index_memory R200). -/
def execLdI (nnn : Addr12) (s : State) : Result State :=
  .next (s.setI (addrOperand nnn)).advance

/-- ADD I, Vx (44_index_memory R202): wraps at 65536, and VF is not written. -/
def execAddI (x : Nibble) (s : State) : Result State :=
  .next (s.setI (s.i + byteOperand (s.readV x))).advance

/-- The address of the glyph a byte's low nibble names (44_index_memory R204). -/
def glyphAddr (b : Byte) : Word :=
  byteOperand (b &&& 0x0F#8) * 5

/-- LD F, Vx (44_index_memory R204). -/
def execLdF (x : Nibble) (s : State) : Result State :=
  .next (s.setI (glyphAddr (s.readV x))).advance

/-- A decimal digit of a byte: `vx div d mod 10` (44_index_memory R208). -/
def decimalDigit (b : Byte) (d : Nat) : Byte :=
  BitVec.ofNat 8 (b.toNat / d % 10)

/-- Store the three digits, hundreds first (44_index_memory R208). -/
def State.storeDigits (s : State) (i0 : Word) (b : Byte) : State :=
  ((s.memWrite (indexAddr i0 0) (decimalDigit b 100)).memWrite (indexAddr i0 1) (decimalDigit b 10)).memWrite
    (indexAddr i0 2) (decimalDigit b 1)

/-- LD B, Vx (44_index_memory R208). -/
def execLdB (x : Nibble) (s : State) : Result State :=
  .next (s.storeDigits s.i (s.readV x)).advance

/-- Store the first `k` registers at `i0`, in rising order (44_index_memory R210). -/
def State.storeBlock (s : State) (i0 : Word) : Nat → State
  | 0 => s
  | k + 1 => (s.storeBlock i0 k).memWrite (indexAddr i0 k) (s.readV (blockReg k))

/-- Load the first `k` registers from `i0`, in rising order (44_index_memory R212). -/
def State.loadBlock (s : State) (i0 : Word) : Nat → State
  | 0 => s
  | k + 1 => (s.loadBlock i0 k).writeV (blockReg k) (s.memRead (indexAddr i0 k))

/-- I after a block of V0 to Vx: `(i0 + x + 1) mod 2^16` (44_index_memory R210, R212). -/
def indexAfterBlock (i0 : Word) (x : Nibble) : Word :=
  i0 + BitVec.ofNat 16 (blockLength x)

/-- LD [I], Vx (44_index_memory R210). -/
def execStRegs (x : Nibble) (s : State) : Result State :=
  .next ((s.storeBlock s.i (blockLength x)).setI (indexAfterBlock s.i x)).advance

/-- LD Vx, [I] (44_index_memory R212). -/
def execLdRegs (x : Nibble) (s : State) : Result State :=
  .next ((s.loadBlock s.i (blockLength x)).setI (indexAfterBlock s.i x)).advance

end Sys2Proof.Machine
end

