-- ==== Sys2Proof/Machine/Skips.lean ====
section
/-! DEFINITION. Conditional skips: SE, SNE, SKP, SKNP (42_skips). -/

namespace Sys2Proof.Machine

/-- SE Vx, nn (42_skips R152). -/
def execSeImm (x : Nibble) (nn : Byte) (s : State) : Result State :=
  .next (s.skipIf (decide (s.readV x = nn)))

/-- SNE Vx, nn (42_skips R154). -/
def execSneImm (x : Nibble) (nn : Byte) (s : State) : Result State :=
  .next (s.skipIf (decide (s.readV x ≠ nn)))

/-- SE Vx, Vy (42_skips R156). -/
def execSeReg (x y : Nibble) (s : State) : Result State :=
  .next (s.skipIf (decide (s.readV x = s.readV y)))

/-- SNE Vx, Vy (42_skips R158). -/
def execSneReg (x y : Nibble) (s : State) : Result State :=
  .next (s.skipIf (decide (s.readV x ≠ s.readV y)))

/-- SKP Vx (42_skips R160). -/
def execSkp (x : Nibble) (s : State) : Result State :=
  .next (s.skipIf (s.pressed (s.readV x)))

/-- SKNP Vx (42_skips R162). -/
def execSknp (x : Nibble) (s : State) : Result State :=
  .next (s.skipIf (!s.pressed (s.readV x)))

end Sys2Proof.Machine
end

