-- ==== Sys2Proof/Machine/TimersKeys.lean ====
section
/-! DEFINITION. The timer and key-wait instructions: LD Vx,DT; LD Vx,K; LD DT,Vx; LD ST,Vx (46_timers_keys). -/

namespace Sys2Proof.Machine

/-- LD Vx, DT (46_timers_keys R240). -/
def execLdVxDt (x : Nibble) (s : State) : Result State :=
  .next (s.writeV x s.dt).advance

/-- LD Vx, K (46_timers_keys R242): one completed step that stays while no key is pressed. -/
def execLdVxK (x : Nibble) (s : State) : Result State :=
  match keySelect s.params.keywait s.key with
  | none => .next s.stay
  | some k => .next (s.writeV x (BitVec.ofNat 8 k.val)).advance

/-- LD DT, Vx (46_timers_keys R244). -/
def execLdDtVx (x : Nibble) (s : State) : Result State :=
  .next (s.setDt (s.readV x)).advance

/-- LD ST, Vx (46_timers_keys R246). -/
def execLdStVx (x : Nibble) (s : State) : Result State :=
  .next (s.setSt (s.readV x)).advance

end Sys2Proof.Machine
end

