-- ==== Sys2Proof/Machine/Cycle.lean ====
section
/-! DEFINITION. The Cycle Driver: fetch, decode, execute, count (40_execution_cycle R110 to R119), and where a fetched word
stands in memory. -/

namespace Sys2Proof.Machine

/-- The instruction rule of a word (40_execution_cycle R112, R113): an unrecognized word takes the unknown-instruction
fault (60_exceptions R262). -/
def execWord (w : Word) (s : State) : Result State :=
  match decodeWord w with
  | .ok i => exec i s
  | .error _ => .next (s.enterFault .unknownInstruction w)

/-- What follows the instruction rule of a machine that was not halted: a completed instruction is counted, a faulting one
is not (40_execution_cycle R118, R119). -/
def State.complete (t : State) : State :=
  if t.halted then t else t.countCycle

/-- One step (40_execution_cycle R122). A halted machine changes nothing (R110). -/
def cycle (s : State) : Result State :=
  if s.halted then .next s
  else
    match execWord s.fetchWord s with
    | .next t => .next t.complete
    | .fault f => .fault f
    | .refused r => .refused r

/-- The state with a word where the next step fetches it (20_memory R64), on a machine that is not halted, since a halted
one fetches nothing (40_execution_cycle R110). It stands for the host's load (log entry 6). -/
def State.placeWord (s : State) (w : Word) : State :=
  { (s.memWrite s.pc.toNat (w.extractLsb' 8 8)).memWrite (s.pc.toNat + 1) (w.extractLsb' 0 8) with halted := false }

end Sys2Proof.Machine
end

