-- ==== Sys2Proof/Machine/Step.lean ====
section
/-! DEFINITION. The step of the machine, and the state that fetches a given word of the opcode table. -/

namespace Sys2Proof.Machine

/-- One `step` of the host (40_execution_cycle R110 to R122). -/
def step (s : State) : Host.Outcome State Fault Refusal :=
  cycle s

/-- The state whose next step fetches the word `w` of a table row. -/
def State.withFetchWord (s : State) (nbits w : Nat) : State :=
  s.placeWord (tableWord nbits w)

end Sys2Proof.Machine
end

