-- ==== Sys2Proof/Machine/Disasm.lean ====
section
/-! DEFINITION. The disassembler, a pure query (60_exceptions R303), with the operand forms of 30_encoding R93. -/

namespace Sys2Proof.Machine

/-- What the disassembler says of an address (60_exceptions R303). -/
inductive DisasmToken where
  /-- both bytes of the word are not inside memory -/
  | outOfBounds
  /-- an unrecognized word, with the raw word -/
  | unknown (w : Word)
  /-- a recognized instruction -/
  | known (i : Instr)
  deriving DecidableEq, Repr

/-- An operand as 30_encoding R93 writes it, a number as its hex digits with the highest first. -/
inductive DisasmOperand where
  /-- `Vx`, the index as one hex digit -/
  | reg (x : Nibble)
  /-- `{, Vy}` of SHR and SHL, which may be written or left out: the open text of log entry 5 decides (log entry 17) -/
  | optionalReg (y : Nibble)
  /-- `nn`, a hex byte -/
  | byte (high low : Nibble)
  /-- `nnn`, a hex address -/
  | addr (high middle low : Nibble)
  /-- `n`, a hex digit -/
  | height (n : Nibble)
  /-- an operand that is a name: I, DT, ST, K, F, B, [I] -/
  | named (name : String)
  deriving DecidableEq, Repr

/-- A byte as its two hex digits (30_encoding R93). -/
def hexByte (nn : Byte) : DisasmOperand :=
  .byte (nn.extractLsb' 4 4) (nn.extractLsb' 0 4)

/-- An address as its three hex digits (30_encoding R93). -/
def hexAddr (nnn : Addr12) : DisasmOperand :=
  .addr (nnn.extractLsb' 8 4) (nnn.extractLsb' 4 4) (nnn.extractLsb' 0 4)

/-- The mnemonic and the operands of an instruction (30_encoding R93). DESIGN CHOICE (log entry 17): SHR and SHL list the
Vy operand that R93 lets be written or left out, as an operand of its own kind, and leave to the open text whether it is
written. A SYS word has a form here, as in R93's table, and the disassembler renders it as unknown (60_exceptions R303). -/
def disasmForm : Instr → String × List DisasmOperand
  | .sys nnn     => ("SYS", [hexAddr nnn])
  | .cls         => ("CLS", [])
  | .ret         => ("RET", [])
  | .jp nnn      => ("JP", [hexAddr nnn])
  | .call nnn    => ("CALL", [hexAddr nnn])
  | .seImm x nn  => ("SE", [.reg x, hexByte nn])
  | .sneImm x nn => ("SNE", [.reg x, hexByte nn])
  | .seReg x y   => ("SE", [.reg x, .reg y])
  | .ldImm x nn  => ("LD", [.reg x, hexByte nn])
  | .addImm x nn => ("ADD", [.reg x, hexByte nn])
  | .ldReg x y   => ("LD", [.reg x, .reg y])
  | .orReg x y   => ("OR", [.reg x, .reg y])
  | .andReg x y  => ("AND", [.reg x, .reg y])
  | .xorReg x y  => ("XOR", [.reg x, .reg y])
  | .addReg x y  => ("ADD", [.reg x, .reg y])
  | .sub x y     => ("SUB", [.reg x, .reg y])
  | .shr x y     => ("SHR", [.reg x, .optionalReg y])
  | .subn x y    => ("SUBN", [.reg x, .reg y])
  | .shl x y     => ("SHL", [.reg x, .optionalReg y])
  | .sneReg x y  => ("SNE", [.reg x, .reg y])
  | .ldI nnn     => ("LD", [.named "I", hexAddr nnn])
  | .jpV0 nnn    => ("JP", [.reg 0, hexAddr nnn])
  | .rnd x nn    => ("RND", [.reg x, hexByte nn])
  | .drw x y n   => ("DRW", [.reg x, .reg y, .height n])
  | .skp x       => ("SKP", [.reg x])
  | .sknp x      => ("SKNP", [.reg x])
  | .ldVxDt x    => ("LD", [.reg x, .named "DT"])
  | .ldVxK x     => ("LD", [.reg x, .named "K"])
  | .ldDtVx x    => ("LD", [.named "DT", .reg x])
  | .ldStVx x    => ("LD", [.named "ST", .reg x])
  | .addI x      => ("ADD", [.named "I", .reg x])
  | .ldF x       => ("LD", [.named "F", .reg x])
  | .ldB x       => ("LD", [.named "B", .reg x])
  | .stRegs x    => ("LD", [.named "[I]", .reg x])
  | .ldRegs x    => ("LD", [.reg x, .named "[I]"])

/-- The classification of a word, the same as the Execution Engine's: a SYS word and a word of no row are unknown
(30_encoding R85, R89, R91; 60_exceptions R303). -/
def disasmWord (w : Word) : DisasmToken :=
  match decodeWord w with
  | .ok (.sys _) => .unknown w
  | .ok i => .known i
  | .error _ => .unknown w

/-- `disassemble(a)` up to its rendering: out of bounds from 4095 on (60_exceptions R303). -/
def State.disasmToken (s : State) (a : Nat) : DisasmToken :=
  if 4095 ≤ a then .outOfBounds else disasmWord (wordOfBytes (s.byteAt a) (s.byteAt (a + 1)))

/-- What the text of a disassembly renders (60_exceptions R303): an instruction as its mnemonic and operands. -/
inductive Rendering where
  | outOfBounds
  | unknown (w : Word)
  | instruction (mnemonic : String) (operands : List DisasmOperand)
  deriving DecidableEq, Repr

/-- Each recognized word is rendered with the mnemonic and operand forms of 30_encoding R93 (60_exceptions R303). -/
def renderToken : DisasmToken → Rendering
  | .outOfBounds => .outOfBounds
  | .unknown w => .unknown w
  | .known i => .instruction (disasmForm i).1 (disasmForm i).2

/-- `disassemble(a)` up to its exact text (60_exceptions R303). -/
def State.disassembly (s : State) (a : Nat) : Rendering :=
  renderToken (s.disasmToken a)

end Sys2Proof.Machine

namespace Sys2Proof

/-- FREE VALUE (log entry 5): `DISASM_TEXT`, the exact text of a rendering (00_scope R8, D23). It has no body. -/
opaque Config.disasmText : Machine.Rendering → String

end Sys2Proof
end

