-- ==== Sys2Proof/Machine/HostOps.lean ====
section
/-! DEFINITION. The host's transactions (60_exceptions R290): each is one atomic function of the state (00_scope R6), and a
schedule is a list of them (00_scope R9). -/

namespace Sys2Proof.Machine

/-! ## Stepping -/

/-- What `step` returns (40_execution_cycle R120). -/
inductive StepResult where
  | success
  /-- this step raised the fault -/
  | failure (kind : FaultKind)
  /-- the machine was already halted -/
  | failureHalted
  /-- MODEL'S OWN: the step was refused; no instruction of this model is, so it is never returned -/
  | noMeaning
  deriving DecidableEq, Repr

/-- The result of a step from the state after it: success when it is not halted (40_execution_cycle R120). -/
def State.resultAfter (t : State) : StepResult :=
  if t.halted then
    match t.fault with
    | some r => .failure r.kind
    | none => .failureHalted
  else .success

/-- `step()`: the state after, and the result (40_execution_cycle R110, R120). -/
def State.stepOp (s : State) : State × StepResult :=
  if s.halted then (s, .failureHalted)
  else
    match step s with
    | .next t => (t, t.resultAfter)
    | .fault f => nomatch f
    | .refused _ => (s, .noMeaning)

/-- `step_n(count)`: the state after, and the number of steps that succeeded (40_execution_cycle R121). -/
def State.stepN (s : State) : Nat → State × Nat
  | 0 => (s, 0)
  | count + 1 =>
    match s.stepOp with
    | (t, .success) => ((t.stepN count).1, (t.stepN count).2 + 1)
    | (t, _) => (t, 0)

/-! ## Timers -/

/-- A countdown clamped at zero (60_exceptions R280, R281). -/
def countDown (b : Byte) : Byte :=
  if b = 0 then 0 else b - 1

/-- `tick()`: both timers, each on its own, halted or not (60_exceptions R280, R282). -/
def State.tick (s : State) : State :=
  (s.setDt (countDown s.dt)).setSt (countDown s.st)

/-- The sound output (60_exceptions R285). -/
def State.soundOn (s : State) : Bool :=
  decide (0 < s.st.toNat)

/-! ## Loading and reset -/

/-- Store bytes from an address up. -/
def State.loadBytes (s : State) (a : Nat) : List Byte → State
  | [] => s
  | b :: rest => (s.setByte a b).loadBytes (a + 1) rest

/-- `load(image)`, or none when the image is too long (70_reset_and_hazards R314, R315). -/
def State.load (s : State) (image : List Byte) : Option State :=
  if image.length ≤ Config.maxImage then some (s.loadBytes Config.loadBase image) else none

/-- `reset()`: every field of the spec's state at its initial value (70_reset_and_hazards R311); the model's own draw
counter goes on and the parameters stay (log entries 1 to 4). -/
def State.hardReset (s : State) : State :=
  { State.reset with draws := s.draws, params := s.params }

/-! ## Keys, run flag, dirty flag, debug writes -/

/-- A key event, or none for an index of 16 or more (60_exceptions R294). -/
def State.setKey (s : State) (k : Nat) (down : Bool) : Option State :=
  if h : k < 16 then some { s with key := s.key.set k down h } else none

/-- `start()`, or none when halted (60_exceptions R296). -/
def State.start (s : State) : Option State :=
  if s.halted then none else some { s with running := true }

/-- `stop()` (60_exceptions R296). -/
def State.stop (s : State) : State :=
  { s with running := false }

/-- The state after `poll_redraw()`, whose reply is the flag before it (60_exceptions R297). -/
def State.clearRedraw (s : State) : State :=
  { s with redrawPending := false }

/-- `write_memory(a, v)`, or none out of range (60_exceptions R298). -/
def State.writeMemory (s : State) (a v : Nat) : Option State :=
  if a < Config.memSize ∧ v < 256 then some (s.setByte a (BitVec.ofNat 8 v)) else none

/-- `poke_register(i, v)`, or none out of range (60_exceptions R300). -/
def State.pokeRegister (s : State) (i v : Nat) : Option State :=
  if i < 16 ∧ v < 256 then some (s.writeV (BitVec.ofNat 4 i) (BitVec.ofNat 8 v)) else none

/-! ## Views -/

/-- What the host may read (60_exceptions R299). -/
inductive View where
  | memory (a : Nat)
  | display (p : Nat)
  | redraw
  | pc
  | index
  | register (i : Nat)
  | stackEntry (j : Nat)
  | stackDepth
  | delayTimer
  | soundTimer
  | halted
  | running
  | cycleCount
  | fault
  deriving DecidableEq, Repr

/-- The value of a view. -/
inductive ViewValue where
  | number (n : Nat)
  | boolean (b : Bool)
  | entry (w : Option Word)
  | record (r : Option FaultRecord)
  deriving DecidableEq, Repr

/-- The value of a view, with the defaults of an index out of range (60_exceptions R299, R301). -/
def State.view (s : State) : View → ViewValue
  | .memory a => .number (if a < Config.memSize then (s.byteAt a).toNat else 0)
  | .display p => .boolean (s.display.cell p)
  | .redraw => .boolean s.redrawPending
  | .pc => .number s.pc.toNat
  | .index => .number s.i.toNat
  | .register i => .number (if i < 16 then (s.readV (BitVec.ofNat 4 i)).toNat else 0)
  | .stackEntry j => .entry (if j < s.sp.val then s.stack[j]? else none)
  | .stackDepth => .number s.sp.val
  | .delayTimer => .number s.dt.toNat
  | .soundTimer => .number s.st.toNat
  | .halted => .boolean s.halted
  | .running => .boolean s.running
  | .cycleCount => .number s.cycleCount.toNat
  | .fault => .record s.fault

/-! ## All transactions -/

/-- Every transaction of the host interface (60_exceptions R290). -/
inductive Transaction where
  | load (image : List Byte)
  | reset
  | step
  | stepN (count : Nat)
  | tick
  | keyDown (k : Nat)
  | keyUp (k : Nat)
  | start
  | stop
  | pollRedraw
  | writeMemory (a v : Nat)
  | pokeRegister (i v : Nat)
  | view (q : View)
  | disassemble (a : Nat)
  deriving DecidableEq, Repr

/-- What a transaction returns to the host. -/
inductive Reply where
  | accepted
  | refused
  | stepped (r : StepResult)
  | counted (n : Nat)
  | flag (b : Bool)
  | value (v : ViewValue)
  | text (t : String)
  deriving DecidableEq, Repr

/-- The outcome of an operation that may be refused: a refused one changes nothing. -/
def State.accept (s : State) : Option State → State × Reply
  | some t => (t, .accepted)
  | none => (s, .refused)

/-- One transaction (60_exceptions R290). -/
def transact (t : Transaction) (s : State) : State × Reply :=
  match t with
  | .load image => s.accept (s.load image)
  | .reset => (s.hardReset, .accepted)
  | .step => (s.stepOp.1, .stepped s.stepOp.2)
  | .stepN count => ((s.stepN count).1, .counted (s.stepN count).2)
  | .tick => (s.tick, .accepted)
  | .keyDown k => s.accept (s.setKey k true)
  | .keyUp k => s.accept (s.setKey k false)
  | .start => s.accept s.start
  | .stop => (s.stop, .accepted)
  | .pollRedraw => (s.clearRedraw, .flag s.redrawPending)
  | .writeMemory a v => s.accept (s.writeMemory a v)
  | .pokeRegister i v => s.accept (s.pokeRegister i v)
  | .view q => (s, .value (s.view q))
  | .disassemble a => (s, .text (Config.disasmText (s.disassembly a)))

/-- The state after a schedule of transactions, in order (00_scope R9). -/
def runSchedule : List Transaction → State → State
  | [], s => s
  | t :: rest, s => runSchedule rest (transact t s).1

end Sys2Proof.Machine
end

