-- ==== Sys2Proof/Safety.lean ====
section
/-! DEFINITION. The terms in which claims are stated: safe states, the invariant of every transition, what an instruction
leaves unchanged, and the tables of the spec that a claim compares the machine with. -/

namespace Sys2Proof.Machine

/-! ## Safe states and the invariant -/

/-- A state in which no execution fault has been taken (10_state R32). -/
def State.Safe (s : State) : Prop :=
  s.halted = false

/-- What a fault record says is so: its pc is the PC, and its kind's condition holds of the word and of SP (60_exceptions
R261, R263). -/
def State.FaultRecordTrue (s : State) : Prop :=
  ∀ r, s.fault = some r → r.pc = s.pc ∧
    match r.kind with
    | .stackOverflow => s.sp.val = 16 ∧ ∃ nnn, decodeWord r.word = .ok (.call nnn)
    | .stackUnderflow => s.sp.val = 0 ∧ decodeWord r.word = .ok .ret
    | .unknownInstruction => unrecognized r.word = true

/-- The invariant of every transition (10_state R41): memory is in canonical form; the machine is halted exactly when a fault
is recorded; a halted machine is not running; and the fault record is true. The bounds of R41 on SP and on the widths hold
by the types of State. -/
def State.Inv (s : State) : Prop :=
  Memory.wf s.params.font s.memory ∧ (s.halted = true ↔ s.fault ≠ none) ∧
    (s.halted = true → s.running = false) ∧ s.FaultRecordTrue

/-! ## What is left unchanged -/

/-- Every V register but those listed. -/
def SameV (but : List Nibble) (s t : State) : Prop :=
  ∀ y, y ∉ but → t.readV y = s.readV y

/-- Every byte of memory. -/
def SameBytes (s t : State) : Prop :=
  ∀ a, t.memRead a = s.memRead a

/-- Every byte of memory but those at offsets 0 to `len - 1` through the index `i0`. -/
def SameBytesOutside (i0 : Word) (len : Nat) (s t : State) : Prop :=
  ∀ a, (∀ k < len, eff a ≠ eff (indexAddr i0 k)) → t.memRead a = s.memRead a

/-- Every display cell, and the dirty flag. -/
def SameDisplay (s t : State) : Prop :=
  (∀ p, t.display.cell p = s.display.cell p) ∧ t.redrawPending = s.redrawPending

/-- The stack, the timers, the key latches, the control flags, the counter, the fault record and the parameters. -/
def SameRest (s t : State) : Prop :=
  t.stack = s.stack ∧ t.sp = s.sp ∧ t.dt = s.dt ∧ t.st = s.st ∧ t.key = s.key ∧ t.running = s.running ∧
    t.halted = s.halted ∧ t.cycleCount = s.cycleCount ∧ t.fault = s.fault ∧ t.params = s.params

/-- All but PC and the V registers listed. -/
def OnlyV (but : List Nibble) (s t : State) : Prop :=
  SameV but s t ∧ t.i = s.i ∧ SameBytes s t ∧ SameDisplay s t ∧ SameRest s t ∧ t.draws = s.draws

/-! ## Sequences of instruction rules -/

/-- The instruction rules of a list, one after the other. -/
def execAll : List Instr → State → Result State
  | [], s => .next s
  | i :: rest, s =>
    match exec i s with
    | .next t => execAll rest t
    | .fault f => .fault f
    | .refused r => .refused r

/-! ## The spec's tables -/

/-- How an instruction moves PC (40_execution_cycle R123). -/
inductive AdvanceClass where
  | set
  | skip
  | stay
  | two
  | none
  deriving DecidableEq, Repr

/-- The advance class of each row (40_execution_cycle R123). -/
def advanceClass : Instr → AdvanceClass
  | .sys _ => .none
  | .ret => .set
  | .jp _ => .set
  | .call _ => .set
  | .jpV0 _ => .set
  | .seImm _ _ => .skip
  | .sneImm _ _ => .skip
  | .seReg _ _ => .skip
  | .sneReg _ _ => .skip
  | .skp _ => .skip
  | .sknp _ => .skip
  | .ldVxK _ => .stay
  | .cls => .two
  | .ldImm _ _ => .two
  | .addImm _ _ => .two
  | .ldReg _ _ => .two
  | .orReg _ _ => .two
  | .andReg _ _ => .two
  | .xorReg _ _ => .two
  | .addReg _ _ => .two
  | .sub _ _ => .two
  | .shr _ _ => .two
  | .subn _ _ => .two
  | .shl _ _ => .two
  | .ldI _ => .two
  | .rnd _ _ => .two
  | .drw _ _ _ => .two
  | .ldVxDt _ => .two
  | .ldDtVx _ => .two
  | .ldStVx _ => .two
  | .addI _ => .two
  | .ldF _ => .two
  | .ldB _ => .two
  | .stRegs _ => .two
  | .ldRegs _ => .two

/-- Whether a skip instruction's condition holds (42_skips R152 to R162); no other instruction skips. -/
def skipTaken (s : State) : Instr → Bool
  | .seImm x nn => decide (s.readV x = nn)
  | .sneImm x nn => decide (s.readV x ≠ nn)
  | .seReg x y => decide (s.readV x = s.readV y)
  | .sneReg x y => decide (s.readV x ≠ s.readV y)
  | .skp x => decide (∃ k : Fin 16, k.val = (s.readV x).toNat ∧ s.key.get k = true)
  | .sknp x => decide (¬ ∃ k : Fin 16, k.val = (s.readV x).toNat ∧ s.key.get k = true)
  | .sys _ => false
  | .cls => false
  | .ret => false
  | .jp _ => false
  | .call _ => false
  | .ldImm _ _ => false
  | .addImm _ _ => false
  | .ldReg _ _ => false
  | .orReg _ _ => false
  | .andReg _ _ => false
  | .xorReg _ _ => false
  | .addReg _ _ => false
  | .sub _ _ => false
  | .shr _ _ => false
  | .subn _ _ => false
  | .shl _ _ => false
  | .ldI _ => false
  | .jpV0 _ => false
  | .rnd _ _ => false
  | .drw _ _ _ => false
  | .ldVxDt _ => false
  | .ldVxK _ => false
  | .ldDtVx _ => false
  | .ldStVx _ => false
  | .addI _ => false
  | .ldF _ => false
  | .ldB _ => false
  | .stRegs _ => false
  | .ldRegs _ => false

/-- Whether an instruction writes the register y, by the rows "V[x]" and "VF as flag" of 10_state R39. -/
def writesV (y : Nibble) : Instr → Bool
  | .ldImm x _ => decide (y = x)
  | .addImm x _ => decide (y = x)
  | .ldReg x _ => decide (y = x)
  | .orReg x _ => decide (y = x) || decide (y = vf)
  | .andReg x _ => decide (y = x) || decide (y = vf)
  | .xorReg x _ => decide (y = x) || decide (y = vf)
  | .addReg x _ => decide (y = x) || decide (y = vf)
  | .sub x _ => decide (y = x) || decide (y = vf)
  | .shr x _ => decide (y = x) || decide (y = vf)
  | .subn x _ => decide (y = x) || decide (y = vf)
  | .shl x _ => decide (y = x) || decide (y = vf)
  | .rnd x _ => decide (y = x)
  | .drw _ _ _ => decide (y = vf)
  | .ldVxDt x => decide (y = x)
  | .ldVxK x => decide (y = x)
  | .ldRegs x => decide (y.toNat ≤ x.toNat)
  | .sys _ => false
  | .cls => false
  | .ret => false
  | .jp _ => false
  | .call _ => false
  | .seImm _ _ => false
  | .sneImm _ _ => false
  | .seReg _ _ => false
  | .sneReg _ _ => false
  | .ldI _ => false
  | .jpV0 _ => false
  | .skp _ => false
  | .sknp _ => false
  | .ldDtVx _ => false
  | .ldStVx _ => false
  | .addI _ => false
  | .ldF _ => false
  | .ldB _ => false
  | .stRegs _ => false

end Sys2Proof.Machine
end

