-- ==== Sys2Proof/Certificates/Slice0/Obligations.lean ====
section
/-! DEFINITION. The statements for the provers, from the spec's numbered rules. A statement about one instruction answers
a next state for EVERY state and operands unless a hypothesis says otherwise, and says what it leaves unchanged. -/

open Sys2Proof Sys2Proof.Machine

/-! ## Encoding -/

/-- 30_encoding R86, R87 (the opcode values are the spec's general-knowledge passage G1: log entry 13): words written
out from the opcode map, at least one of every family, and one unrecognized word. -/
def Obligations.SpecWordsDecode : Prop :=
  decodeWord 0x0123#16 = .ok (.sys 0x123#12) ∧ decodeWord 0x00E0#16 = .ok .cls ∧ decodeWord 0x00EE#16 = .ok .ret ∧
  decodeWord 0x1ABC#16 = .ok (.jp 0xABC#12) ∧ decodeWord 0x2300#16 = .ok (.call 0x300#12) ∧
  decodeWord 0x332A#16 = .ok (.seImm 0x3#4 0x2A#8) ∧ decodeWord 0x5120#16 = .ok (.seReg 0x1#4 0x2#4) ∧
  decodeWord 0x9120#16 = .ok (.sneReg 0x1#4 0x2#4) ∧ decodeWord 0x6A42#16 = .ok (.ldImm 0xA#4 0x42#8) ∧
  decodeWord 0x8014#16 = .ok (.addReg 0x0#4 0x1#4) ∧ decodeWord 0x840E#16 = .ok (.shl 0x4#4 0x0#4) ∧
  decodeWord 0xA123#16 = .ok (.ldI 0x123#12) ∧ decodeWord 0xC30F#16 = .ok (.rnd 0x3#4 0x0F#8) ∧
  decodeWord 0x432A#16 = .ok (.sneImm 0x3#4 0x2A#8) ∧ decodeWord 0x7202#16 = .ok (.addImm 0x2#4 0x02#8) ∧
  decodeWord 0xB300#16 = .ok (.jpV0 0x300#12) ∧
  decodeWord 0xD345#16 = .ok (.drw 0x3#4 0x4#4 0x5#4) ∧ decodeWord 0xE59E#16 = .ok (.skp 0x5#4) ∧
  decodeWord 0xF265#16 = .ok (.ldRegs 0x2#4) ∧ decodeWord 0x8018#16 = .error .family8

/-- 30_encoding R82, R85 (the opcode values are the spec's general-knowledge passage G1: log entry 13): no bit of an
encoding is dropped. For every well-formed instruction, the decoder gives it back from its word, and from its bytes
whatever bytes follow. -/
def Obligations.DecodeInvertsEncode : Prop :=
  ∀ i : Instr, i.wf = true → decodeWord (encode i) = .ok i ∧
    ∀ rest : List Byte, decode (bytesOfWord (encode i) ++ rest) = .ok (i, rest)

/-- 30_encoding R88, R91 (the opcode values are the spec's general-knowledge passage G1: log entry 13): no field of a
recognized word is ignored. A word that decodes is the encoding of what it decodes to, and that is well formed. -/
def Obligations.EncodeInvertsDecode : Prop :=
  ∀ (w : Word) (i : Instr), decodeWord w = .ok i → i.wf = true ∧ encode i = w

/-- 30_encoding R89 (the opcode values are the spec's general-knowledge passage G1: log entry 13; that 8xy0 is a row
is decision D5, and that SYS is unrecognized D6): the unrecognized words are exactly those of its six families, by
their fields. -/
def Obligations.UnrecognizedWordsAreThoseListed : Prop :=
  ∀ w : Word, unrecognized w = true ↔
    (w.extractLsb' 12 4 = 0x0#4 ∧ w.extractLsb' 0 12 ≠ 0x0E0#12 ∧ w.extractLsb' 0 12 ≠ 0x0EE#12) ∨
    (w.extractLsb' 12 4 = 0x5#4 ∧ w.extractLsb' 0 4 ≠ 0x0#4) ∨
    (w.extractLsb' 12 4 = 0x8#4 ∧ w.extractLsb' 0 4 ∈ [0x8#4, 0x9#4, 0xA#4, 0xB#4, 0xC#4, 0xD#4, 0xF#4]) ∨
    (w.extractLsb' 12 4 = 0x9#4 ∧ w.extractLsb' 0 4 ≠ 0x0#4) ∨
    (w.extractLsb' 12 4 = 0xE#4 ∧ w.extractLsb' 0 8 ∉ [0x9E#8, 0xA1#8]) ∨
    (w.extractLsb' 12 4 = 0xF#4 ∧
      w.extractLsb' 0 8 ∉ [0x07#8, 0x0A#8, 0x15#8, 0x18#8, 0x1E#8, 0x29#8, 0x33#8, 0x55#8, 0x65#8])

/-- 30_encoding R87, R91 and spec/opcode_table.json (the opcode values are the spec's general-knowledge passage G1:
log entry 13): for every row but SYS, a word has the row's match under the row's mask exactly when it decodes to an
instruction of that row. -/
def Obligations.OpcodeRowsMatchDecoder : Prop :=
  ∀ (w : Word) (r : OpcodeRow), r ∈ opcodeRows → r ≠ ⟨0xF000, 0x0000⟩ →
    (w &&& r.mask = r.pattern ↔ ∃ i, decodeWord w = .ok i ∧ i.row = r)

/-! ## The step -/

/-- 20_memory R64 (the reduction mod 4096 is decision D2): the fetched word is big-endian, and each of its two byte
addresses is reduced mod 4096. -/
def Obligations.FetchIsBigEndian : Prop :=
  ∀ s : State, s.fetchWord.toNat =
      (s.byteAt (s.pc.toNat % 4096)).toNat * 256 + (s.byteAt ((s.pc.toNat + 1) % 4096)).toNat ∧
    (s.pc.toNat % 4096 = 0xFFF →
      s.fetchWord.toNat = (s.byteAt 0xFFF).toNat * 256 + (s.byteAt 0x000).toNat)

/-- 30_encoding R81, 20_memory R64: a word placed for the next step is the word the machine then fetches, at every PC,
the wrap at 0xFFF included; and what it decodes to is what the decoder reads from the table's bits. -/
def Obligations.PlacedWordIsFetched : Prop :=
  ∀ (s : State) (w : Nat), w < 65536 → (s.withFetchWord 16 w).fetchWord = BitVec.ofNat 16 w ∧
    (s.withFetchWord 16 w).pc = s.pc ∧
    ∀ i, decodeTableWord 16 w = some i ↔ decodeWord (s.withFetchWord 16 w).fetchWord = .ok i

/-- 40_execution_cycle R111 to R113, R118, R119: on a machine that is not halted, when the bytes at PC decode to i,
the step is the rule of i, and counts it in `cycle_count` unless the rule took a fault (left the machine halted). -/
def Obligations.StepRunsDecodedInstruction : Prop :=
  ∀ (s : State) (i : Instr) (rest after : List Byte), s.halted = false →
    decode (s.memRead s.pc.toNat :: s.memRead (s.pc.toNat + 1) :: rest) = .ok (i, after) →
    i.wf = true ∧ after = rest ∧
    step s = match exec i s with
      | .next t => .next (if t.halted then t else { t with cycleCount := t.cycleCount + 1 })
      | .fault f => .fault f
      | .refused r => .refused r

/-- 60_exceptions R262, R263 (R263's writes are decision D15): a step on an unrecognized word halts the machine, stops
it running, records the fault with the PC and the word, and changes nothing else. -/
def Obligations.UnrecognizedWordFaults : Prop :=
  ∀ s : State, s.halted = false → unrecognized s.fetchWord = true →
    step s = .next { s with halted := true, running := false,
                            fault := some ⟨.unknownInstruction, s.pc, s.fetchWord⟩ }

/-- 40_execution_cycle R110 (that a stopped machine may be stepped is decision D18): a step of a halted machine
changes no state and returns the failure; and `step` does not read `running`. -/
def Obligations.HaltedStepChangesNothing : Prop :=
  (∀ s : State, s.halted = true → step s = .next s ∧ s.stepOp = (s, .failureHalted)) ∧
  ∀ (s : State) (b : Bool), ({ s with running := b } : State).stepOp.2 = s.stepOp.2 ∧
    ∃ b', ({ s with running := b } : State).stepOp.1 = { s.stepOp.1 with running := b' }

/-- 60_exceptions R260, R261 and 20_memory R61: every step of every state answers a next state, and no step of the
host is without a meaning. -/
def Obligations.StepAlwaysAnswers : Prop :=
  ∀ s : State, (∃ t, step s = .next t) ∧ s.stepOp.2 ≠ .noMeaning

/-- 40_execution_cycle R118, R120 (R118's increment is C3 and D16): a step that completes adds 1 to `cycle_count`,
wrapping at 2^64, and succeeds; one that faults leaves it and returns the fault's kind. -/
def Obligations.CompletedStepsAreCounted : Prop :=
  ∀ s t : State, s.halted = false → step s = .next t →
    (t.halted = false → t.cycleCount = s.cycleCount + 1 ∧ s.stepOp = (t, .success)) ∧
    (t.halted = true → t.cycleCount = s.cycleCount ∧ ∃ r, t.fault = some r ∧ s.stepOp = (t, .failure r.kind))

/-- 60_exceptions R261, R263, R264 (what a fault writes is decision D15): a step faults exactly on a CALL with SP =
16, a RET with SP = 0, or an unrecognized word, with that kind; and the state after is the state before but for
`halted`, `running` and `fault`. -/
def Obligations.FaultsArePrecise : Prop :=
  ∀ s t : State, s.halted = false → step s = .next t →
    (t.halted = true ↔
      ((∃ nnn, decodeWord s.fetchWord = .ok (.call nnn)) ∧ s.sp.val = 16) ∨
      (decodeWord s.fetchWord = .ok .ret ∧ s.sp.val = 0) ∨ unrecognized s.fetchWord = true) ∧
    (t.halted = true → ∃ k, t = { s with halted := true, running := false, fault := some ⟨k, s.pc, s.fetchWord⟩ } ∧
      (k = .stackOverflow ↔ (∃ nnn, decodeWord s.fetchWord = .ok (.call nnn)) ∧ s.sp.val = 16) ∧
      (k = .stackUnderflow ↔ decodeWord s.fetchWord = .ok .ret ∧ s.sp.val = 0) ∧
      (k = .unknownInstruction ↔ unrecognized s.fetchWord = true))

/-! ## Control transfer -/

/-- 41_control_flow R131 (decisions D6 and D15): SYS takes the unknown-instruction fault with its own word, and
changes nothing else: PC stays. -/
def Obligations.SysTakesUnknownInstruction : Prop :=
  ∀ (nnn : Addr12) (s : State), exec (.sys nnn) s =
    .next { s with halted := true, running := false, fault := some ⟨.unknownInstruction, s.pc, 0x0#4 ++ nnn⟩ }

/-- 41_control_flow R132 (the popped entry is decision D21, and what a fault writes D15): RET sets PC to the most
recent return address and lowers SP, the entry keeping its value; with SP = 0 it takes the stack underflow. -/
def Obligations.RetPopsOrUnderflows : Prop :=
  ∀ s : State,
    (∀ h : 0 < s.sp.val, exec .ret s =
      .next { s with sp := ⟨s.sp.val - 1, by omega⟩, pc := s.stack[s.sp.val - 1]'(by omega) }) ∧
    (s.sp.val = 0 → exec .ret s =
      .next { s with halted := true, running := false, fault := some ⟨.stackUnderflow, s.pc, 0x00EE#16⟩ })

/-- 41_control_flow R133: JP sets PC to nnn, with bits 15:12 zero, and changes nothing else. -/
def Obligations.JpSetsPc : Prop :=
  ∀ (nnn : Addr12) (s : State), exec (.jp nnn) s = .next { s with pc := BitVec.ofNat 16 nnn.toNat }

/-- 41_control_flow R138 (the sum is not masked to 12 bits: decision D3): JP V0 sets PC to nnn + V0 mod 2^16, and
changes nothing else. -/
def Obligations.JpV0AddsV0 : Prop :=
  ∀ (nnn : Addr12) (s : State), exec (.jpV0 nnn) s =
    .next { s with pc := BitVec.ofNat 16 (nnn.toNat + (s.readV 0x0#4).toNat) }

/-- 41_control_flow R134 (what a fault writes is decision D15): CALL pushes PC + 2 and sets PC to nnn; with SP = 16 it
takes the stack overflow. -/
def Obligations.CallPushesOrOverflows : Prop :=
  ∀ (nnn : Addr12) (s : State),
    (∀ h : s.sp.val < 16, exec (.call nnn) s =
      .next { s with stack := s.stack.set s.sp.val (BitVec.ofNat 16 (s.pc.toNat + 2)) h,
                     sp := ⟨s.sp.val + 1, by omega⟩, pc := BitVec.ofNat 16 nnn.toNat }) ∧
    (s.sp.val = 16 → exec (.call nnn) s =
      .next { s with halted := true, running := false, fault := some ⟨.stackOverflow, s.pc, 0x2#4 ++ nnn⟩ })

/-- 41_control_flow R135: the RET that matches a CALL at address a, when SP and the pushed entry are as the CALL left
them, resumes at a + 2 with SP as it was. -/
def Obligations.MatchingRetResumesAfterCall : Prop :=
  ∀ (nnn : Addr12) (s u : State), s.sp.val < 16 → ∃ t, exec (.call nnn) s = .next t ∧
    (u.sp = t.sp → u.stack[s.sp.val]? = t.stack[s.sp.val]? →
      exec .ret u = .next { u with pc := s.pc + 2, sp := s.sp })

/-- 41_control_flow R136 (what a fault writes is decision D15): from SP = 0, sixteen nested CALLs succeed and leave SP
= 16; a seventeenth takes the overflow and halts; and a RET with SP = 0 takes the underflow and halts. -/
def Obligations.SixteenNestedCalls : Prop :=
  (∀ (s : State) (targets : List Addr12), s.sp.val = 0 → targets.length = 16 →
    ∃ t, execAll (targets.map Instr.call) s = .next t ∧ t.sp.val = 16 ∧ t.halted = s.halted ∧
      ∀ nnn, ∃ u, exec (.call nnn) t = .next u ∧ u.halted = true ∧
        u.fault = some ⟨.stackOverflow, t.pc, 0x2#4 ++ nnn⟩) ∧
  ∀ s : State, s.sp.val = 0 → ∃ u, exec .ret s = .next u ∧ u.halted = true ∧
    u.fault = some ⟨.stackUnderflow, s.pc, 0x00EE#16⟩

/-! ## Skips -/

/-- 42_skips R152, R154: SE and SNE with an immediate move PC by 4 when the condition holds and by 2 when it does not,
and change nothing else. -/
def Obligations.ImmediateSkips : Prop :=
  ∀ (x : Nibble) (nn : Byte) (s : State),
    exec (.seImm x nn) s = .next { s with pc := if s.readV x = nn then s.pc + 4 else s.pc + 2 } ∧
    exec (.sneImm x nn) s = .next { s with pc := if s.readV x ≠ nn then s.pc + 4 else s.pc + 2 }

/-- 42_skips R156, R158: SE and SNE of two registers, likewise; so x = y always skips in SE and never in SNE. -/
def Obligations.RegisterSkips : Prop :=
  (∀ (x y : Nibble) (s : State),
    exec (.seReg x y) s = .next { s with pc := if s.readV x = s.readV y then s.pc + 4 else s.pc + 2 } ∧
    exec (.sneReg x y) s = .next { s with pc := if s.readV x ≠ s.readV y then s.pc + 4 else s.pc + 2 }) ∧
  ∀ (x : Nibble) (s : State), exec (.seReg x x) s = .next { s with pc := s.pc + 4 } ∧
    exec (.sneReg x x) s = .next { s with pc := s.pc + 2 }

/-- 42_skips R160, R162, R164 (an index of 16 or more is not pressed: decision D10): SKP and SKNP test the latch whose
index is the whole byte Vx, and change nothing but PC. -/
def Obligations.KeySkips : Prop :=
  ∀ (x : Nibble) (s : State),
    (∀ h : (s.readV x).toNat < 16,
      exec (.skp x) s = .next { s with pc := if s.key[(s.readV x).toNat] = true then s.pc + 4 else s.pc + 2 } ∧
      exec (.sknp x) s = .next { s with pc := if s.key[(s.readV x).toNat] = true then s.pc + 2 else s.pc + 4 }) ∧
    (16 ≤ (s.readV x).toNat →
      exec (.skp x) s = .next { s with pc := s.pc + 2 } ∧ exec (.sknp x) s = .next { s with pc := s.pc + 4 })

/-! ## Loads and arithmetic -/

/-- 43_alu R170, R172: LD Vx, nn gives Vx = nn; ADD Vx, nn gives Vx = (Vx + nn) mod 256; no flag, VF included, unless
x is F. -/
def Obligations.ImmediateLoadAndAdd : Prop :=
  ∀ (x : Nibble) (nn : Byte) (s : State),
    (∃ t, exec (.ldImm x nn) s = .next t ∧ t.readV x = nn ∧ t.pc = s.pc + 2 ∧ OnlyV [x] s t) ∧
    (∃ t, exec (.addImm x nn) s = .next t ∧ (t.readV x).toNat = ((s.readV x).toNat + nn.toNat) % 256 ∧
      t.pc = s.pc + 2 ∧ OnlyV [x] s t)

/-- 43_alu R174 (the row itself is decision D5): LD Vx, Vy copies Vy and writes no flag; with x = y nothing but PC
changes. -/
def Obligations.RegisterCopy : Prop :=
  ∀ (x y : Nibble) (s : State), ∃ t, exec (.ldReg x y) s = .next t ∧ t.readV x = s.readV y ∧ t.pc = s.pc + 2 ∧
    OnlyV [x] s t ∧ (x = y → OnlyV [] s t)

/-- 43_alu R176, R178, R180 (the order of the two writes is decision D8): OR, AND and XOR write the bitwise result and
then VF = 0, always: with x = F, VF ends 0. -/
def Obligations.BitwiseOpsResetVF : Prop :=
  ∀ (x y : Nibble) (s : State),
    (∃ t, exec (.orReg x y) s = .next t ∧ t.readV 0xF#4 = 0 ∧ (x ≠ 0xF#4 → t.readV x = s.readV x ||| s.readV y) ∧
      t.pc = s.pc + 2 ∧ OnlyV [x, 0xF#4] s t) ∧
    (∃ t, exec (.andReg x y) s = .next t ∧ t.readV 0xF#4 = 0 ∧ (x ≠ 0xF#4 → t.readV x = s.readV x &&& s.readV y) ∧
      t.pc = s.pc + 2 ∧ OnlyV [x, 0xF#4] s t) ∧
    (∃ t, exec (.xorReg x y) s = .next t ∧ t.readV 0xF#4 = 0 ∧ (x ≠ 0xF#4 → t.readV x = s.readV x ^^^ s.readV y) ∧
      t.pc = s.pc + 2 ∧ OnlyV [x, 0xF#4] s t)

/-- 43_alu R182 (the order of the two writes is decision D8): ADD Vx, Vy writes the sum mod 256 and then VF = 1 if the
sum passes 255, else 0; with x = F, VF ends as the carry. -/
def Obligations.AddSetsCarry : Prop :=
  ∀ (x y : Nibble) (s : State), ∃ t, exec (.addReg x y) s = .next t ∧
    (x ≠ 0xF#4 → (t.readV x).toNat = ((s.readV x).toNat + (s.readV y).toNat) % 256) ∧
    t.readV 0xF#4 = (if 255 < (s.readV x).toNat + (s.readV y).toNat then 1 else 0) ∧
    t.pc = s.pc + 2 ∧ OnlyV [x, 0xF#4] s t

/-- 43_alu R184, R188 (the order of the two writes is decision D8): SUB writes Vx - Vy and SUBN Vy - Vx, mod 256, and
then VF = 1 if the minuend is at least the subtrahend, else 0. -/
def Obligations.SubtractionsSetNotBorrow : Prop :=
  ∀ (x y : Nibble) (s : State),
    (∃ t, exec (.sub x y) s = .next t ∧
      (x ≠ 0xF#4 → (t.readV x).toNat = (256 + (s.readV x).toNat - (s.readV y).toNat) % 256) ∧
      t.readV 0xF#4 = (if (s.readV x).toNat ≥ (s.readV y).toNat then 1 else 0) ∧
      t.pc = s.pc + 2 ∧ OnlyV [x, 0xF#4] s t) ∧
    (∃ t, exec (.subn x y) s = .next t ∧
      (x ≠ 0xF#4 → (t.readV x).toNat = (256 + (s.readV y).toNat - (s.readV x).toNat) % 256) ∧
      t.readV 0xF#4 = (if (s.readV y).toNat ≥ (s.readV x).toNat then 1 else 0) ∧
      t.pc = s.pc + 2 ∧ OnlyV [x, 0xF#4] s t)

/-- 43_alu R186, R190 (the parameter SHIFT_SOURCE is decision D7, the order of the two writes D8): SHR and SHL shift
Vx, or Vy when the parameter says so, by one, and then VF is the bit shifted out: bit 0 for SHR, bit 7 for SHL. -/
def Obligations.ShiftsSetShiftedOutBit : Prop :=
  ∀ (x y : Nibble) (s : State) (src : Nat),
    src = (if s.params.shiftSource = .vx then s.readV x else s.readV y).toNat →
    (∃ t, exec (.shr x y) s = .next t ∧ (x ≠ 0xF#4 → (t.readV x).toNat = src / 2) ∧
      (t.readV 0xF#4).toNat = src % 2 ∧ t.pc = s.pc + 2 ∧ OnlyV [x, 0xF#4] s t) ∧
    (∃ t, exec (.shl x y) s = .next t ∧ (x ≠ 0xF#4 → (t.readV x).toNat = src * 2 % 256) ∧
      (t.readV 0xF#4).toNat = src / 128 ∧ t.pc = s.pc + 2 ∧ OnlyV [x, 0xF#4] s t)

/-- 43_alu R194 (the draw is free: decision D12, log entry 1): RND writes the drawn byte under the mask nn, so Vx has
no bit outside nn and is 0 when nn is; the next draw is another one; no flag. -/
def Obligations.RandomByteUnderMask : Prop :=
  ∀ (x : Nibble) (nn : Byte) (s : State), ∃ t, exec (.rnd x nn) s = .next t ∧
    t.readV x = Config.rand s.draws &&& nn ∧ t.readV x &&& ~~~nn = 0 ∧ (nn = 0 → t.readV x = 0) ∧
    t.draws = s.draws + 1 ∧ t.pc = s.pc + 2 ∧
    SameV [x] s t ∧ t.i = s.i ∧ SameBytes s t ∧ SameDisplay s t ∧ SameRest s t

/-! ## The index register and memory -/

/-- 44_index_memory R200, R202, R204 (no flag on Fx1E: decision D9): LD I gives nnn, ADD I adds Vx mod 2^16, LD F
gives five times the low nibble of Vx; nothing but I and PC changes. -/
def Obligations.IndexLoads : Prop :=
  (∀ (nnn : Addr12) (s : State), exec (.ldI nnn) s =
    .next { s with i := BitVec.ofNat 16 nnn.toNat, pc := s.pc + 2 }) ∧
  (∀ (x : Nibble) (s : State), exec (.addI x) s =
    .next { s with i := BitVec.ofNat 16 (s.i.toNat + (s.readV x).toNat), pc := s.pc + 2 }) ∧
  ∀ (x : Nibble) (s : State), exec (.ldF x) s =
    .next { s with i := BitVec.ofNat 16 ((s.readV x).toNat % 16 * 5), pc := s.pc + 2 }

/-- 44_index_memory R208 (the reduction of the addresses is decision D2): LD B stores the hundreds, tens and ones of
Vx at I, I + 1 and I + 2, each reduced mod 4096; every other byte, I and every register stay. -/
def Obligations.DecimalDigitsStored : Prop :=
  ∀ (x : Nibble) (s : State), ∃ t, exec (.ldB x) s = .next t ∧
    (t.memRead (indexAddr s.i 0)).toNat = (s.readV x).toNat / 100 ∧
    (t.memRead (indexAddr s.i 1)).toNat = (s.readV x).toNat / 10 % 10 ∧
    (t.memRead (indexAddr s.i 2)).toNat = (s.readV x).toNat % 10 ∧
    SameBytesOutside s.i 3 s t ∧ t.pc = s.pc + 2 ∧ SameV [] s t ∧ t.i = s.i ∧ SameDisplay s t ∧ SameRest s t ∧
    t.draws = s.draws

/-- 44_index_memory R210 (the reduction of the addresses is decision D2): LD [I], Vx stores V0 to Vx at I, I + 1, ...,
each address reduced mod 4096, and adds x + 1 to I mod 2^16; every other byte and every register stay. -/
def Obligations.RegisterBlockStored : Prop :=
  ∀ (x : Nibble) (s : State), ∃ t, exec (.stRegs x) s = .next t ∧
    (∀ k : Nibble, k.toNat ≤ x.toNat → t.memRead (indexAddr s.i k.toNat) = s.readV k) ∧
    SameBytesOutside s.i (x.toNat + 1) s t ∧ t.i = BitVec.ofNat 16 (s.i.toNat + x.toNat + 1) ∧ t.pc = s.pc + 2 ∧
    SameV [] s t ∧ SameDisplay s t ∧ SameRest s t ∧ t.draws = s.draws

/-- 44_index_memory R212 (the reduction of the addresses is decision D2): LD Vx, [I] loads V0 to Vx from I, I + 1,
..., each address reduced mod 4096, and adds x + 1 to I mod 2^16; the registers above Vx and every byte stay. -/
def Obligations.RegisterBlockLoaded : Prop :=
  ∀ (x : Nibble) (s : State), ∃ t, exec (.ldRegs x) s = .next t ∧
    (∀ k : Nibble, k.toNat ≤ x.toNat → t.readV k = s.memRead (indexAddr s.i k.toNat)) ∧
    (∀ k : Nibble, x.toNat < k.toNat → t.readV k = s.readV k) ∧
    t.i = BitVec.ofNat 16 (s.i.toNat + x.toNat + 1) ∧ t.pc = s.pc + 2 ∧
    SameBytes s t ∧ SameDisplay s t ∧ SameRest s t ∧ t.draws = s.draws

/-- 44_index_memory R210, R212 ("the inverse"): loading V0 to Vx in any state whose memory is as the store left it and
whose I is the one stored through gives back the registers stored. -/
def Obligations.BlockStoreThenLoad : Prop :=
  ∀ (x : Nibble) (s u : State), ∃ t, exec (.stRegs x) s = .next t ∧
    (SameBytes t u → u.i = s.i → ∃ v, exec (.ldRegs x) u = .next v ∧
      (∀ k : Nibble, k.toNat ≤ x.toNat → v.readV k = s.readV k) ∧ v.i = t.i)

/-- 20_memory R73, 70_reset_and_hazards R322 (the reduction of the core's addresses is decision D2, the arguments of
write_memory D24, what a load changes D22): a byte that LD [I], Vx, or LD B, Vx, or write_memory, or load stores at
the address of the next instruction's high or low byte is the byte the next fetch reads there. -/
def Obligations.StoredBytesAreFetched : Prop :=
  (∀ (x k : Nibble) (s t : State), exec (.stRegs x) s = .next t → k.toNat ≤ x.toNat →
    (eff (indexAddr s.i k.toNat) = eff t.pc.toNat → t.fetchWord.extractLsb' 8 8 = s.readV k) ∧
    (eff (indexAddr s.i k.toNat) = eff (t.pc.toNat + 1) → t.fetchWord.extractLsb' 0 8 = s.readV k)) ∧
  (∀ (x : Nibble) (s t : State) (k digit : Nat), exec (.ldB x) s = .next t →
    (k, digit) ∈ [(0, (s.readV x).toNat / 100), (1, (s.readV x).toNat / 10 % 10), (2, (s.readV x).toNat % 10)] →
    (eff (indexAddr s.i k) = eff t.pc.toNat → (t.fetchWord.extractLsb' 8 8).toNat = digit) ∧
    (eff (indexAddr s.i k) = eff (t.pc.toNat + 1) → (t.fetchWord.extractLsb' 0 8).toNat = digit)) ∧
  (∀ (a v : Nat) (s t : State), transact (.writeMemory a v) s = (t, .accepted) →
    (a = eff t.pc.toNat → (t.fetchWord.extractLsb' 8 8).toNat = v) ∧
    (a = eff (t.pc.toNat + 1) → (t.fetchWord.extractLsb' 0 8).toNat = v)) ∧
  ∀ (image : List Byte) (k : Nat) (b : Byte) (s t : State), transact (.load image) s = (t, .accepted) →
    image[k]? = some b →
    (0x200 + k = eff t.pc.toNat → t.fetchWord.extractLsb' 8 8 = b) ∧
    (0x200 + k = eff (t.pc.toNat + 1) → t.fetchWord.extractLsb' 0 8 = b)

/-! ## The display -/

/-- 45_display R220 (the flag is set even when no cell changes: decision D20): CLS makes every cell false and sets the
dirty flag; VF and everything else stay. -/
def Obligations.ClearScreen : Prop :=
  ∀ s : State, ∃ t, exec .cls s = .next t ∧ (∀ p, t.display.cell p = false) ∧ t.redrawPending = true ∧
    t.pc = s.pc + 2 ∧ SameV [] s t ∧ t.i = s.i ∧ SameBytes s t ∧ SameRest s t ∧ t.draws = s.draws

/-- 45_display R222, R226 (the bit order is decision D33, the case n = 0 D19, the dirty flag D20): DRW inverts exactly
the cells some set bit of the sprite falls on, both coordinates wrapping, and gives VF = 1 exactly when one of them
was on before; it sets the dirty flag. -/
def Obligations.DrawXorsSprite : Prop :=
  ∀ (x y n : Nibble) (s : State) (hit : Nat → Prop),
    (∀ p, hit p ↔ ∃ row < n.toNat, ∃ col < 8, (s.memRead (indexAddr s.i row)).getLsbD (7 - col) = true ∧
      ((s.readV y).toNat + row) % 32 * 64 + ((s.readV x).toNat + col) % 64 = p) →
    ∃ t, exec (.drw x y n) s = .next t ∧
      (∀ p, hit p → t.display.cell p = !s.display.cell p) ∧ (∀ p, ¬ hit p → t.display.cell p = s.display.cell p) ∧
      ((∃ p, hit p ∧ s.display.cell p = true) → t.readV 0xF#4 = 1) ∧
      ((∀ p, hit p → s.display.cell p = false) → t.readV 0xF#4 = 0) ∧
      t.redrawPending = true ∧ t.pc = s.pc + 2 ∧ SameV [0xF#4] s t ∧ t.i = s.i ∧ SameBytes s t ∧ SameRest s t ∧
      t.draws = s.draws

/-- 45_display R224 (the bit order of the sprite is decision D33, the reduction of its addresses D2): drawing a sprite
twice at the same place restores the display, and where every cell it falls on is off before, the first draw gives VF
= 0 and the second VF = 1 exactly when the sprite has a set bit. The condition on the cells before is log entry 7:
without it R224's last clause does not follow from R222. With x or y = F the place itself moves, since the first draw
writes VF. -/
def Obligations.DrawingTwiceRestores : Prop :=
  ∀ (x y n : Nibble) (s : State), x ≠ 0xF#4 → y ≠ 0xF#4 →
    ∃ t u, exec (.drw x y n) s = .next t ∧ exec (.drw x y n) t = .next u ∧
      (∀ p, u.display.cell p = s.display.cell p) ∧
      ((∀ row < n.toNat, ∀ col < 8, (s.memRead (indexAddr s.i row)).getLsbD (7 - col) = true →
          s.display.cell (((s.readV y).toNat + row) % 32 * 64 + ((s.readV x).toNat + col) % 64) = false) →
        t.readV 0xF#4 = 0 ∧ (u.readV 0xF#4 = 1 ↔
          ∃ row < n.toNat, ∃ col < 8, (s.memRead (indexAddr s.i row)).getLsbD (7 - col) = true))

/-! ## Timers and keys -/

/-- 46_timers_keys R240, R244, R246: LD Vx, DT reads the delay timer; LD DT, Vx and LD ST, Vx write their timer;
nothing else changes but PC. -/
def Obligations.TimerTransfers : Prop :=
  ∀ (x : Nibble) (s : State),
    (∃ t, exec (.ldVxDt x) s = .next t ∧ t.readV x = s.dt ∧ t.pc = s.pc + 2 ∧ OnlyV [x] s t) ∧
    exec (.ldDtVx x) s = .next { s with dt := s.readV x, pc := s.pc + 2 } ∧
    exec (.ldStVx x) s = .next { s with st := s.readV x, pc := s.pc + 2 }

/-- 46_timers_keys R242 (level-triggered, and the parameter KEYWAIT_SELECT: decision D11): LD Vx, K changes nothing at
all while no key is pressed; once a key is pressed it writes a key index and advances; and with the default parameter
that is the lowest pressed key. -/
def Obligations.KeyWait : Prop :=
  ∀ (x : Nibble) (s : State),
    ((∀ k : Fin 16, s.key.get k = false) → exec (.ldVxK x) s = .next s) ∧
    ((∃ k : Fin 16, s.key.get k = true) → ∃ t, exec (.ldVxK x) s = .next t ∧ (t.readV x).toNat < 16 ∧
      t.pc = s.pc + 2 ∧ OnlyV [x] s t ∧
      (s.params.keywait = [] → ∀ k : Fin 16, s.key.get k = true → (∀ j < k, s.key.get j = false) →
        (t.readV x).toNat = k.val))

/-! ## Host transactions -/

/-- 60_exceptions R280, R281, R282 (halted or not: decision D26): n ticks lower each timer by n on its own, never
below zero, and change nothing else. -/
def Obligations.TicksCountDownClamped : Prop :=
  ∀ (n : Nat) (s : State), (State.tick^[n] s).dt.toNat = s.dt.toNat - n ∧ (State.tick^[n] s).st.toNat = s.st.toNat - n ∧
    State.tick^[n] s = { s with dt := (State.tick^[n] s).dt, st := (State.tick^[n] s).st }

/-- 60_exceptions R294 (a key index of 16 or more is refused: decision D25): a key event sets or clears its own latch
alone, halted or not; an index of 16 or more is refused and changes nothing. -/
def Obligations.KeyEventsSetLatches : Prop :=
  ∀ (s : State) (k : Nat),
    (∀ h : k < 16, transact (.keyDown k) s = ({ s with key := s.key.set k true h }, .accepted) ∧
      transact (.keyUp k) s = ({ s with key := s.key.set k false h }, .accepted)) ∧
    (16 ≤ k → transact (.keyDown k) s = (s, .refused) ∧ transact (.keyUp k) s = (s, .refused))

/-- 60_exceptions R296, R297 (start is refused while halted: decision D18): start and stop write `running` alone; a
poll returns the dirty flag and clears it, and a second poll returns false. -/
def Obligations.RunFlagAndDirtyFlag : Prop :=
  ∀ s : State, transact .stop s = ({ s with running := false }, .accepted) ∧
    (s.halted = false → transact .start s = ({ s with running := true }, .accepted)) ∧
    (s.halted = true → transact .start s = (s, .refused)) ∧
    transact .pollRedraw s = ({ s with redrawPending := false }, .flag s.redrawPending) ∧
    (transact .pollRedraw (transact .pollRedraw s).1).2 = .flag false

/-- 60_exceptions R298, R300 (their arguments are decision D24): write_memory stores a byte below 4096 and
poke_register writes V0 to VF; each changes nothing else, and refuses anything else. -/
def Obligations.DebugWrites : Prop :=
  ∀ (s : State) (a v : Nat),
    (a < 4096 → v < 256 → ∃ t, transact (.writeMemory a v) s = (t, .accepted) ∧ (t.byteAt a).toNat = v ∧
      (∀ b, b ≠ a → t.byteAt b = s.byteAt b) ∧ t = { s with memory := t.memory }) ∧
    (4096 ≤ a ∨ 256 ≤ v → transact (.writeMemory a v) s = (s, .refused)) ∧
    (a < 16 → v < 256 → ∃ t, transact (.pokeRegister a v) s = (t, .accepted) ∧
      (t.readV (BitVec.ofNat 4 a)).toNat = v ∧ SameV [BitVec.ofNat 4 a] s t ∧ t = { s with v := t.v }) ∧
    (16 ≤ a ∨ 256 ≤ v → transact (.pokeRegister a v) s = (s, .refused))

/-- 70_reset_and_hazards R314, R315 (only the image bytes change: decision D22): an image of at most 3584 bytes is
copied to 0x200 and up, and nothing else changes; a longer one is refused and changes nothing. -/
def Obligations.LoadCopiesImage : Prop :=
  ∀ (s : State) (image : List Byte),
    (image.length ≤ 3584 → ∃ t, transact (.load image) s = (t, .accepted) ∧
      (∀ k b, image[k]? = some b → t.byteAt (0x200 + k) = b) ∧
      (∀ a, (a < 0x200 ∨ 0x200 + image.length ≤ a) → t.byteAt a = s.byteAt a) ∧ t = { s with memory := t.memory }) ∧
    (3584 < image.length → transact (.load image) s = (s, .refused))

/-- 70_reset_and_hazards R311, R313, 10_state R33, R38 (memory returns to the font and zeros: decision D31): reset is
accepted in every state, halted or not, and leaves every field of the spec's state at its initial value, the font
being the parameter FONT. -/
def Obligations.ResetReturnsToInitial : Prop :=
  ∀ s : State, ∃ t, transact .reset s = (t, .accepted) ∧
    (∀ (g : Fin 16) (r : Fin 5), t.byteAt (5 * g.val + r.val) = (s.params.font.get g).get r) ∧
    (∀ a, 0x50 ≤ a → t.byteAt a = 0) ∧ (∀ p, t.display.cell p = false) ∧ t.redrawPending = false ∧
    (∀ x, t.readV x = 0) ∧ t.i = 0 ∧ t.pc = 0x200 ∧ (∀ j : Fin 16, t.stack.get j = 0) ∧ t.sp = 0 ∧ t.dt = 0 ∧ t.st = 0 ∧
    (∀ k : Fin 16, t.key.get k = false) ∧ t.running = false ∧ t.halted = false ∧ t.cycleCount = 0 ∧ t.fault = none

/-- 10_state R38 (the zeros above the font are decision D14), 41_control_flow R131 (decisions D6 and D15): the whole
initialized state, the font bytes being those of the parameter FONT; and its first step, with nothing loaded, takes
the unknown-instruction fault on the word 0x0000 at 0x200. -/
def Obligations.FirstStepAfterReset : Prop :=
  (∀ (g : Fin 16) (r : Fin 5), State.reset.byteAt (5 * g.val + r.val) = (State.reset.params.font.get g).get r) ∧
  (∀ a, 0x50 ≤ a → State.reset.byteAt a = 0) ∧ (∀ p, State.reset.display.cell p = false) ∧
  State.reset.redrawPending = false ∧ (∀ x, State.reset.readV x = 0) ∧ State.reset.i = 0 ∧ State.reset.pc = 0x200 ∧
  (∀ j : Fin 16, State.reset.stack.get j = 0) ∧ State.reset.sp = 0 ∧ State.reset.dt = 0 ∧ State.reset.st = 0 ∧
  (∀ k : Fin 16, State.reset.key.get k = false) ∧ State.reset.running = false ∧ State.reset.halted = false ∧
  State.reset.cycleCount = 0 ∧ State.reset.fault = none ∧
  step State.reset = .next { State.reset with halted := true, fault := some ⟨.unknownInstruction, 0x200#16, 0x0000#16⟩ }

/-- 60_exceptions R299, R301, R290 (what the views are is decision D24, the defaults D36, an entry beyond the depth
log entry 11): a view or a disassembly changes nothing; a view in range answers the field it names; and a view out of
range answers zero, false or empty. -/
def Obligations.QueriesAreReadOnly : Prop :=
  (∀ (s : State) (q : View), (transact (.view q) s).1 = s) ∧ (∀ (s : State) (a : Nat), (transact (.disassemble a) s).1 = s) ∧
  (∀ (s : State) (n : Nat),
    (n < 4096 → (transact (.view (.memory n)) s).2 = .value (.number (s.byteAt n).toNat)) ∧
    (4096 ≤ n → (transact (.view (.memory n)) s).2 = .value (.number 0)) ∧
    (n < 2048 → (transact (.view (.display n)) s).2 = .value (.boolean (s.display.cell n))) ∧
    (2048 ≤ n → (transact (.view (.display n)) s).2 = .value (.boolean false)) ∧
    (n < 16 → (transact (.view (.register n)) s).2 = .value (.number (s.readV (BitVec.ofNat 4 n)).toNat)) ∧
    (16 ≤ n → (transact (.view (.register n)) s).2 = .value (.number 0)) ∧
    (n < s.sp.val → (transact (.view (.stackEntry n)) s).2 = .value (.entry s.stack[n]?) ∧ s.stack[n]? ≠ none) ∧
    (s.sp.val ≤ n → (transact (.view (.stackEntry n)) s).2 = .value (.entry none))) ∧
  ∀ s : State, (transact (.view .redraw) s).2 = .value (.boolean s.redrawPending) ∧
    (transact (.view .pc) s).2 = .value (.number s.pc.toNat) ∧
    (transact (.view .index) s).2 = .value (.number s.i.toNat) ∧
    (transact (.view .stackDepth) s).2 = .value (.number s.sp.val) ∧
    (transact (.view .delayTimer) s).2 = .value (.number s.dt.toNat) ∧
    (transact (.view .soundTimer) s).2 = .value (.number s.st.toNat) ∧
    (transact (.view .halted) s).2 = .value (.boolean s.halted) ∧
    (transact (.view .running) s).2 = .value (.boolean s.running) ∧
    (transact (.view .cycleCount) s).2 = .value (.number s.cycleCount.toNat) ∧
    (transact (.view .fault) s).2 = .value (.record s.fault)

/-- 60_exceptions R303 (its bound is decision D23): decoder parity. The disassembler calls a word unknown exactly when
it is unrecognized, and otherwise names the instruction a step would run; from 4095 on it says out of bounds. -/
def Obligations.DisassemblerParity : Prop :=
  (∀ w : Word, (disasmWord w = .unknown w ↔ unrecognized w = true) ∧
    ∀ i, disasmWord w = .known i ↔ decodeWord w = .ok i ∧ unrecognized w = false) ∧
  ∀ (s : State) (a : Nat), (4095 ≤ a → s.disasmToken a = .outOfBounds) ∧
    (a < 4095 → s.disasmToken a = disasmWord (s.byteAt a ++ s.byteAt (a + 1)))

/-- 30_encoding R93, R94 and 60_exceptions R303 (the mnemonics are the spec's general-knowledge passage G3: log entry
13; the text is the free value of log entry 5, and an operand of SHR and SHL is log entry 17; the bound is decision
D23): a disassembly answers the text of the mnemonic and operands of a recognized word, of the raw word of an
unrecognized one, or of out of bounds; and no two instructions have the same mnemonic and operands. -/
def Obligations.DisassemblyRendersForms : Prop :=
  (∀ (s : State) (a : Nat), a < 4095 →
    (∀ i, decodeWord (s.byteAt a ++ s.byteAt (a + 1)) = .ok i → unrecognized (s.byteAt a ++ s.byteAt (a + 1)) = false →
      transact (.disassemble a) s = (s, .text (Config.disasmText (.instruction (disasmForm i).1 (disasmForm i).2)))) ∧
    (unrecognized (s.byteAt a ++ s.byteAt (a + 1)) = true →
      transact (.disassemble a) s = (s, .text (Config.disasmText (.unknown (s.byteAt a ++ s.byteAt (a + 1))))))) ∧
  (∀ (s : State) (a : Nat), 4095 ≤ a → transact (.disassemble a) s = (s, .text (Config.disasmText .outOfBounds))) ∧
  ∀ i j : Instr, disasmForm i = disasmForm j → i = j

/-- 40_execution_cycle R121 (what is counted: decision D17): step_n runs at most `count` steps and returns how many
succeeded; it stops early only when the machine is halted; each success adds 1 to `cycle_count`; on a halted machine
it returns 0 and changes nothing; and the state is that of running the core `count` times. -/
def Obligations.StepNCountsSuccesses : Prop :=
  ∀ (count : Nat) (s : State), (s.stepN count).2 ≤ count ∧
    ((s.stepN count).2 < count → (s.stepN count).1.halted = true) ∧
    (s.stepN count).1.cycleCount = s.cycleCount + BitVec.ofNat 64 (s.stepN count).2 ∧
    (s.halted = true → s.stepN count = (s, 0)) ∧
    Host.Core.run Sys2Proof.core count s = .next (s.stepN count).1

/-! ## Whole-machine rules -/

/-- 10_state R39: which instructions write each field. An instruction that changes a field is one of those the table
lists for it; no instruction changes KEY or `cycle_count`; and only a fault changes `running`, `halted` and `fault`.
R39 lists RET beside CALL for the stack and SP together; that RET changes SP alone, its entry keeping its value, is
decision D21 (10_state R28, log entry 16). That Fx1E writes no flag is decision D9, that SYS faults D6, what a fault
writes D15. The clauses on `draws` and `params` are of the model's own fields, log entries 1 to 4. -/
def Obligations.WritersOfEachField : Prop :=
  ∀ (i : Instr) (s t : State), exec i s = .next t →
    ((∃ a, t.memRead a ≠ s.memRead a) → (∃ x, i = .ldB x) ∨ ∃ x, i = .stRegs x) ∧
    (t.display ≠ s.display → i = .cls ∨ ∃ x y n, i = .drw x y n) ∧
    (t.redrawPending ≠ s.redrawPending → (i = .cls ∨ ∃ x y n, i = .drw x y n) ∧ t.redrawPending = true) ∧
    (∀ y, t.readV y ≠ s.readV y → writesV y i = true) ∧
    (t.i ≠ s.i → (∃ nnn, i = .ldI nnn) ∨ (∃ x, i = .addI x) ∨ (∃ x, i = .ldF x) ∨ (∃ x, i = .stRegs x) ∨
      ∃ x, i = .ldRegs x) ∧
    (t.stack ≠ s.stack → ∃ nnn, i = .call nnn) ∧ (t.sp ≠ s.sp → (∃ nnn, i = .call nnn) ∨ i = .ret) ∧
    (t.dt ≠ s.dt → ∃ x, i = .ldDtVx x) ∧ (t.st ≠ s.st → ∃ x, i = .ldStVx x) ∧ t.key = s.key ∧
    ((t.running, t.halted, t.fault) ≠ (s.running, s.halted, s.fault) → (∃ nnn, i = .sys nnn) ∨
      ((∃ nnn, i = .call nnn) ∧ s.sp.val = 16) ∨ (i = .ret ∧ s.sp.val = 0)) ∧
    t.cycleCount = s.cycleCount ∧ t.params = s.params ∧ (t.draws ≠ s.draws → ∃ x nn, i = .rnd x nn)

/-- 40_execution_cycle R123 (that a fault leaves PC is decision D15, log entry 16; the 16-bit PC without a mask is
D3): every instruction moves PC as its advance class says. Class `two` advances by 2; `skip` by 4 when the skip is
taken and by 2 when not; `stay` not at all with no key pressed and by 2 otherwise; `set`, which is RET, JP, CALL and
JP V0, sets it to the popped address, nnn, nnn and nnn + V0 when no fault is taken; `none` leaves it; and an
instruction that takes a fault leaves it, whatever its class. -/
def Obligations.AdvanceClassOfEachRow : Prop :=
  ∀ (i : Instr) (s : State), ∃ t, exec i s = .next t ∧
    (advanceClass i = .two → t.pc = s.pc + 2) ∧
    (advanceClass i = .skip → t.pc = s.pc + (if skipTaken s i then 4 else 2)) ∧
    (advanceClass i = .stay → t.pc = s.pc + (if ∃ k : Fin 16, s.key.get k = true then 2 else 0)) ∧
    (advanceClass i = .set ↔
      i = .ret ∨ (∃ nnn, i = .jp nnn) ∨ (∃ nnn, i = .call nnn) ∨ ∃ nnn, i = .jpV0 nnn) ∧
    (i = .ret → ∀ h : 0 < s.sp.val, t.pc = s.stack[s.sp.val - 1]'(by omega)) ∧
    (∀ nnn, i = .jp nnn → t.pc = BitVec.ofNat 16 nnn.toNat) ∧
    (∀ nnn, i = .call nnn → s.sp.val < 16 → t.pc = BitVec.ofNat 16 nnn.toNat) ∧
    (∀ nnn, i = .jpV0 nnn → t.pc = BitVec.ofNat 16 (nnn.toNat + (s.readV 0x0#4).toNat)) ∧
    (advanceClass i = .none → t.pc = s.pc) ∧ (s.halted = false → t.halted = true → t.pc = s.pc)

/-- 10_state R34, 40_execution_cycle R110 (decisions D16 and D18), 60_exceptions R270 (D28): the host-only fields
never affect execution. Two states that differ only in `cycle_count`, `running` and `redraw_pending` step to states
that differ only there. -/
def Obligations.HostOnlyFieldsNeverAffectExecution : Prop :=
  ∀ (s : State) (c : BitVec 64) (r d : Bool), ∃ t c' r' d', step s = .next t ∧
    step { s with cycleCount := c, running := r, redrawPending := d } =
      .next { t with cycleCount := c', running := r', redrawPending := d' }

/-! ## Invariants -/

/-- 10_state R38, R41: the initialized state meets the invariant. -/
def Obligations.ResetMeetsInvariant : Prop :=
  State.reset.Inv

/-- 10_state R41, 60_exceptions R263: every step of every state that meets the invariant leads to a state that meets
it: memory stays in canonical form, the machine is halted exactly when a fault is recorded, and the record stays true.
-/
def Obligations.StepKeepsInvariant : Prop :=
  ∀ s : State, s.Inv → ∃ t, step s = .next t ∧ t.Inv

/-- 10_state R41, 60_exceptions R290, R302: every transaction of the host keeps the invariant, so every schedule of
them from the initialized state does. -/
def Obligations.EveryScheduleKeepsInvariant : Prop :=
  (∀ (t : Transaction) (s : State), s.Inv → (transact t s).1.Inv) ∧
  ∀ l : List Transaction, (runSchedule l State.reset).Inv

/-- 10_state R32, 60_exceptions R266, 70_reset_and_hazards R313: a halted machine executes nothing until reset.
Whatever the host does but reset, it stays halted with the same fault record, PC, I, stack, display and counter. -/
def Obligations.HaltedUntilReset : Prop :=
  ∀ (l : List Transaction) (s : State), Transaction.reset ∉ l → s.halted = true →
    (runSchedule l s).halted = true ∧ (runSchedule l s).fault = s.fault ∧ (runSchedule l s).pc = s.pc ∧
    (runSchedule l s).i = s.i ∧ (runSchedule l s).sp = s.sp ∧ (runSchedule l s).stack = s.stack ∧
    (runSchedule l s).display = s.display ∧ (runSchedule l s).cycleCount = s.cycleCount
end

