-- ==== Sys2Proof/Laws/State.lean ====
section
/-! SUPPORT. What each named update does to each field: one lemma per field per update, all by rfl. -/

namespace Sys2Proof.Machine

variable (s : State)

/-! ## setByte -/

@[simp] theorem State.setByte_memory (a : Nat) (b : Byte) : (s.setByte a b).memory = Memory.write s.params.font s.memory a b := rfl
@[simp] theorem State.setByte_display (a : Nat) (b : Byte) : (s.setByte a b).display = s.display := rfl
@[simp] theorem State.setByte_redrawPending (a : Nat) (b : Byte) : (s.setByte a b).redrawPending = s.redrawPending := rfl
@[simp] theorem State.setByte_v (a : Nat) (b : Byte) : (s.setByte a b).v = s.v := rfl
@[simp] theorem State.setByte_i (a : Nat) (b : Byte) : (s.setByte a b).i = s.i := rfl
@[simp] theorem State.setByte_pc (a : Nat) (b : Byte) : (s.setByte a b).pc = s.pc := rfl
@[simp] theorem State.setByte_stack (a : Nat) (b : Byte) : (s.setByte a b).stack = s.stack := rfl
@[simp] theorem State.setByte_sp (a : Nat) (b : Byte) : (s.setByte a b).sp = s.sp := rfl
@[simp] theorem State.setByte_dt (a : Nat) (b : Byte) : (s.setByte a b).dt = s.dt := rfl
@[simp] theorem State.setByte_st (a : Nat) (b : Byte) : (s.setByte a b).st = s.st := rfl
@[simp] theorem State.setByte_key (a : Nat) (b : Byte) : (s.setByte a b).key = s.key := rfl
@[simp] theorem State.setByte_running (a : Nat) (b : Byte) : (s.setByte a b).running = s.running := rfl
@[simp] theorem State.setByte_halted (a : Nat) (b : Byte) : (s.setByte a b).halted = s.halted := rfl
@[simp] theorem State.setByte_cycleCount (a : Nat) (b : Byte) : (s.setByte a b).cycleCount = s.cycleCount := rfl
@[simp] theorem State.setByte_fault (a : Nat) (b : Byte) : (s.setByte a b).fault = s.fault := rfl
@[simp] theorem State.setByte_draws (a : Nat) (b : Byte) : (s.setByte a b).draws = s.draws := rfl
@[simp] theorem State.setByte_params (a : Nat) (b : Byte) : (s.setByte a b).params = s.params := rfl

/-! ## memWrite -/

@[simp] theorem State.memWrite_memory (a : Nat) (b : Byte) : (s.memWrite a b).memory = Memory.write s.params.font s.memory (eff a) b := rfl
@[simp] theorem State.memWrite_display (a : Nat) (b : Byte) : (s.memWrite a b).display = s.display := rfl
@[simp] theorem State.memWrite_redrawPending (a : Nat) (b : Byte) : (s.memWrite a b).redrawPending = s.redrawPending := rfl
@[simp] theorem State.memWrite_v (a : Nat) (b : Byte) : (s.memWrite a b).v = s.v := rfl
@[simp] theorem State.memWrite_i (a : Nat) (b : Byte) : (s.memWrite a b).i = s.i := rfl
@[simp] theorem State.memWrite_pc (a : Nat) (b : Byte) : (s.memWrite a b).pc = s.pc := rfl
@[simp] theorem State.memWrite_stack (a : Nat) (b : Byte) : (s.memWrite a b).stack = s.stack := rfl
@[simp] theorem State.memWrite_sp (a : Nat) (b : Byte) : (s.memWrite a b).sp = s.sp := rfl
@[simp] theorem State.memWrite_dt (a : Nat) (b : Byte) : (s.memWrite a b).dt = s.dt := rfl
@[simp] theorem State.memWrite_st (a : Nat) (b : Byte) : (s.memWrite a b).st = s.st := rfl
@[simp] theorem State.memWrite_key (a : Nat) (b : Byte) : (s.memWrite a b).key = s.key := rfl
@[simp] theorem State.memWrite_running (a : Nat) (b : Byte) : (s.memWrite a b).running = s.running := rfl
@[simp] theorem State.memWrite_halted (a : Nat) (b : Byte) : (s.memWrite a b).halted = s.halted := rfl
@[simp] theorem State.memWrite_cycleCount (a : Nat) (b : Byte) : (s.memWrite a b).cycleCount = s.cycleCount := rfl
@[simp] theorem State.memWrite_fault (a : Nat) (b : Byte) : (s.memWrite a b).fault = s.fault := rfl
@[simp] theorem State.memWrite_draws (a : Nat) (b : Byte) : (s.memWrite a b).draws = s.draws := rfl
@[simp] theorem State.memWrite_params (a : Nat) (b : Byte) : (s.memWrite a b).params = s.params := rfl

/-! ## writeV -/

@[simp] theorem State.writeV_memory (x : Nibble) (b : Byte) : (s.writeV x b).memory = s.memory := rfl
@[simp] theorem State.writeV_display (x : Nibble) (b : Byte) : (s.writeV x b).display = s.display := rfl
@[simp] theorem State.writeV_redrawPending (x : Nibble) (b : Byte) : (s.writeV x b).redrawPending = s.redrawPending := rfl
@[simp] theorem State.writeV_v (x : Nibble) (b : Byte) : (s.writeV x b).v = s.v.set x.toNat b x.isLt := rfl
@[simp] theorem State.writeV_i (x : Nibble) (b : Byte) : (s.writeV x b).i = s.i := rfl
@[simp] theorem State.writeV_pc (x : Nibble) (b : Byte) : (s.writeV x b).pc = s.pc := rfl
@[simp] theorem State.writeV_stack (x : Nibble) (b : Byte) : (s.writeV x b).stack = s.stack := rfl
@[simp] theorem State.writeV_sp (x : Nibble) (b : Byte) : (s.writeV x b).sp = s.sp := rfl
@[simp] theorem State.writeV_dt (x : Nibble) (b : Byte) : (s.writeV x b).dt = s.dt := rfl
@[simp] theorem State.writeV_st (x : Nibble) (b : Byte) : (s.writeV x b).st = s.st := rfl
@[simp] theorem State.writeV_key (x : Nibble) (b : Byte) : (s.writeV x b).key = s.key := rfl
@[simp] theorem State.writeV_running (x : Nibble) (b : Byte) : (s.writeV x b).running = s.running := rfl
@[simp] theorem State.writeV_halted (x : Nibble) (b : Byte) : (s.writeV x b).halted = s.halted := rfl
@[simp] theorem State.writeV_cycleCount (x : Nibble) (b : Byte) : (s.writeV x b).cycleCount = s.cycleCount := rfl
@[simp] theorem State.writeV_fault (x : Nibble) (b : Byte) : (s.writeV x b).fault = s.fault := rfl
@[simp] theorem State.writeV_draws (x : Nibble) (b : Byte) : (s.writeV x b).draws = s.draws := rfl
@[simp] theorem State.writeV_params (x : Nibble) (b : Byte) : (s.writeV x b).params = s.params := rfl

/-! ## setI -/

@[simp] theorem State.setI_memory (w : Word) : (s.setI w).memory = s.memory := rfl
@[simp] theorem State.setI_display (w : Word) : (s.setI w).display = s.display := rfl
@[simp] theorem State.setI_redrawPending (w : Word) : (s.setI w).redrawPending = s.redrawPending := rfl
@[simp] theorem State.setI_v (w : Word) : (s.setI w).v = s.v := rfl
@[simp] theorem State.setI_i (w : Word) : (s.setI w).i = w := rfl
@[simp] theorem State.setI_pc (w : Word) : (s.setI w).pc = s.pc := rfl
@[simp] theorem State.setI_stack (w : Word) : (s.setI w).stack = s.stack := rfl
@[simp] theorem State.setI_sp (w : Word) : (s.setI w).sp = s.sp := rfl
@[simp] theorem State.setI_dt (w : Word) : (s.setI w).dt = s.dt := rfl
@[simp] theorem State.setI_st (w : Word) : (s.setI w).st = s.st := rfl
@[simp] theorem State.setI_key (w : Word) : (s.setI w).key = s.key := rfl
@[simp] theorem State.setI_running (w : Word) : (s.setI w).running = s.running := rfl
@[simp] theorem State.setI_halted (w : Word) : (s.setI w).halted = s.halted := rfl
@[simp] theorem State.setI_cycleCount (w : Word) : (s.setI w).cycleCount = s.cycleCount := rfl
@[simp] theorem State.setI_fault (w : Word) : (s.setI w).fault = s.fault := rfl
@[simp] theorem State.setI_draws (w : Word) : (s.setI w).draws = s.draws := rfl
@[simp] theorem State.setI_params (w : Word) : (s.setI w).params = s.params := rfl

/-! ## setPc -/

@[simp] theorem State.setPc_memory (w : Word) : (s.setPc w).memory = s.memory := rfl
@[simp] theorem State.setPc_display (w : Word) : (s.setPc w).display = s.display := rfl
@[simp] theorem State.setPc_redrawPending (w : Word) : (s.setPc w).redrawPending = s.redrawPending := rfl
@[simp] theorem State.setPc_v (w : Word) : (s.setPc w).v = s.v := rfl
@[simp] theorem State.setPc_i (w : Word) : (s.setPc w).i = s.i := rfl
@[simp] theorem State.setPc_pc (w : Word) : (s.setPc w).pc = w := rfl
@[simp] theorem State.setPc_stack (w : Word) : (s.setPc w).stack = s.stack := rfl
@[simp] theorem State.setPc_sp (w : Word) : (s.setPc w).sp = s.sp := rfl
@[simp] theorem State.setPc_dt (w : Word) : (s.setPc w).dt = s.dt := rfl
@[simp] theorem State.setPc_st (w : Word) : (s.setPc w).st = s.st := rfl
@[simp] theorem State.setPc_key (w : Word) : (s.setPc w).key = s.key := rfl
@[simp] theorem State.setPc_running (w : Word) : (s.setPc w).running = s.running := rfl
@[simp] theorem State.setPc_halted (w : Word) : (s.setPc w).halted = s.halted := rfl
@[simp] theorem State.setPc_cycleCount (w : Word) : (s.setPc w).cycleCount = s.cycleCount := rfl
@[simp] theorem State.setPc_fault (w : Word) : (s.setPc w).fault = s.fault := rfl
@[simp] theorem State.setPc_draws (w : Word) : (s.setPc w).draws = s.draws := rfl
@[simp] theorem State.setPc_params (w : Word) : (s.setPc w).params = s.params := rfl

/-! ## setDt -/

@[simp] theorem State.setDt_memory (b : Byte) : (s.setDt b).memory = s.memory := rfl
@[simp] theorem State.setDt_display (b : Byte) : (s.setDt b).display = s.display := rfl
@[simp] theorem State.setDt_redrawPending (b : Byte) : (s.setDt b).redrawPending = s.redrawPending := rfl
@[simp] theorem State.setDt_v (b : Byte) : (s.setDt b).v = s.v := rfl
@[simp] theorem State.setDt_i (b : Byte) : (s.setDt b).i = s.i := rfl
@[simp] theorem State.setDt_pc (b : Byte) : (s.setDt b).pc = s.pc := rfl
@[simp] theorem State.setDt_stack (b : Byte) : (s.setDt b).stack = s.stack := rfl
@[simp] theorem State.setDt_sp (b : Byte) : (s.setDt b).sp = s.sp := rfl
@[simp] theorem State.setDt_dt (b : Byte) : (s.setDt b).dt = b := rfl
@[simp] theorem State.setDt_st (b : Byte) : (s.setDt b).st = s.st := rfl
@[simp] theorem State.setDt_key (b : Byte) : (s.setDt b).key = s.key := rfl
@[simp] theorem State.setDt_running (b : Byte) : (s.setDt b).running = s.running := rfl
@[simp] theorem State.setDt_halted (b : Byte) : (s.setDt b).halted = s.halted := rfl
@[simp] theorem State.setDt_cycleCount (b : Byte) : (s.setDt b).cycleCount = s.cycleCount := rfl
@[simp] theorem State.setDt_fault (b : Byte) : (s.setDt b).fault = s.fault := rfl
@[simp] theorem State.setDt_draws (b : Byte) : (s.setDt b).draws = s.draws := rfl
@[simp] theorem State.setDt_params (b : Byte) : (s.setDt b).params = s.params := rfl

/-! ## setSt -/

@[simp] theorem State.setSt_memory (b : Byte) : (s.setSt b).memory = s.memory := rfl
@[simp] theorem State.setSt_display (b : Byte) : (s.setSt b).display = s.display := rfl
@[simp] theorem State.setSt_redrawPending (b : Byte) : (s.setSt b).redrawPending = s.redrawPending := rfl
@[simp] theorem State.setSt_v (b : Byte) : (s.setSt b).v = s.v := rfl
@[simp] theorem State.setSt_i (b : Byte) : (s.setSt b).i = s.i := rfl
@[simp] theorem State.setSt_pc (b : Byte) : (s.setSt b).pc = s.pc := rfl
@[simp] theorem State.setSt_stack (b : Byte) : (s.setSt b).stack = s.stack := rfl
@[simp] theorem State.setSt_sp (b : Byte) : (s.setSt b).sp = s.sp := rfl
@[simp] theorem State.setSt_dt (b : Byte) : (s.setSt b).dt = s.dt := rfl
@[simp] theorem State.setSt_st (b : Byte) : (s.setSt b).st = b := rfl
@[simp] theorem State.setSt_key (b : Byte) : (s.setSt b).key = s.key := rfl
@[simp] theorem State.setSt_running (b : Byte) : (s.setSt b).running = s.running := rfl
@[simp] theorem State.setSt_halted (b : Byte) : (s.setSt b).halted = s.halted := rfl
@[simp] theorem State.setSt_cycleCount (b : Byte) : (s.setSt b).cycleCount = s.cycleCount := rfl
@[simp] theorem State.setSt_fault (b : Byte) : (s.setSt b).fault = s.fault := rfl
@[simp] theorem State.setSt_draws (b : Byte) : (s.setSt b).draws = s.draws := rfl
@[simp] theorem State.setSt_params (b : Byte) : (s.setSt b).params = s.params := rfl

/-! ## countDraw -/

@[simp] theorem State.countDraw_memory : (s.countDraw).memory = s.memory := rfl
@[simp] theorem State.countDraw_display : (s.countDraw).display = s.display := rfl
@[simp] theorem State.countDraw_redrawPending : (s.countDraw).redrawPending = s.redrawPending := rfl
@[simp] theorem State.countDraw_v : (s.countDraw).v = s.v := rfl
@[simp] theorem State.countDraw_i : (s.countDraw).i = s.i := rfl
@[simp] theorem State.countDraw_pc : (s.countDraw).pc = s.pc := rfl
@[simp] theorem State.countDraw_stack : (s.countDraw).stack = s.stack := rfl
@[simp] theorem State.countDraw_sp : (s.countDraw).sp = s.sp := rfl
@[simp] theorem State.countDraw_dt : (s.countDraw).dt = s.dt := rfl
@[simp] theorem State.countDraw_st : (s.countDraw).st = s.st := rfl
@[simp] theorem State.countDraw_key : (s.countDraw).key = s.key := rfl
@[simp] theorem State.countDraw_running : (s.countDraw).running = s.running := rfl
@[simp] theorem State.countDraw_halted : (s.countDraw).halted = s.halted := rfl
@[simp] theorem State.countDraw_cycleCount : (s.countDraw).cycleCount = s.cycleCount := rfl
@[simp] theorem State.countDraw_fault : (s.countDraw).fault = s.fault := rfl
@[simp] theorem State.countDraw_draws : (s.countDraw).draws = s.draws + 1 := rfl
@[simp] theorem State.countDraw_params : (s.countDraw).params = s.params := rfl

/-! ## setDisplay -/

@[simp] theorem State.setDisplay_memory (d : Display) : (s.setDisplay d).memory = s.memory := rfl
@[simp] theorem State.setDisplay_display (d : Display) : (s.setDisplay d).display = d := rfl
@[simp] theorem State.setDisplay_redrawPending (d : Display) : (s.setDisplay d).redrawPending = s.redrawPending := rfl
@[simp] theorem State.setDisplay_v (d : Display) : (s.setDisplay d).v = s.v := rfl
@[simp] theorem State.setDisplay_i (d : Display) : (s.setDisplay d).i = s.i := rfl
@[simp] theorem State.setDisplay_pc (d : Display) : (s.setDisplay d).pc = s.pc := rfl
@[simp] theorem State.setDisplay_stack (d : Display) : (s.setDisplay d).stack = s.stack := rfl
@[simp] theorem State.setDisplay_sp (d : Display) : (s.setDisplay d).sp = s.sp := rfl
@[simp] theorem State.setDisplay_dt (d : Display) : (s.setDisplay d).dt = s.dt := rfl
@[simp] theorem State.setDisplay_st (d : Display) : (s.setDisplay d).st = s.st := rfl
@[simp] theorem State.setDisplay_key (d : Display) : (s.setDisplay d).key = s.key := rfl
@[simp] theorem State.setDisplay_running (d : Display) : (s.setDisplay d).running = s.running := rfl
@[simp] theorem State.setDisplay_halted (d : Display) : (s.setDisplay d).halted = s.halted := rfl
@[simp] theorem State.setDisplay_cycleCount (d : Display) : (s.setDisplay d).cycleCount = s.cycleCount := rfl
@[simp] theorem State.setDisplay_fault (d : Display) : (s.setDisplay d).fault = s.fault := rfl
@[simp] theorem State.setDisplay_draws (d : Display) : (s.setDisplay d).draws = s.draws := rfl
@[simp] theorem State.setDisplay_params (d : Display) : (s.setDisplay d).params = s.params := rfl

/-! ## markRedraw -/

@[simp] theorem State.markRedraw_memory : (s.markRedraw).memory = s.memory := rfl
@[simp] theorem State.markRedraw_display : (s.markRedraw).display = s.display := rfl
@[simp] theorem State.markRedraw_redrawPending : (s.markRedraw).redrawPending = true := rfl
@[simp] theorem State.markRedraw_v : (s.markRedraw).v = s.v := rfl
@[simp] theorem State.markRedraw_i : (s.markRedraw).i = s.i := rfl
@[simp] theorem State.markRedraw_pc : (s.markRedraw).pc = s.pc := rfl
@[simp] theorem State.markRedraw_stack : (s.markRedraw).stack = s.stack := rfl
@[simp] theorem State.markRedraw_sp : (s.markRedraw).sp = s.sp := rfl
@[simp] theorem State.markRedraw_dt : (s.markRedraw).dt = s.dt := rfl
@[simp] theorem State.markRedraw_st : (s.markRedraw).st = s.st := rfl
@[simp] theorem State.markRedraw_key : (s.markRedraw).key = s.key := rfl
@[simp] theorem State.markRedraw_running : (s.markRedraw).running = s.running := rfl
@[simp] theorem State.markRedraw_halted : (s.markRedraw).halted = s.halted := rfl
@[simp] theorem State.markRedraw_cycleCount : (s.markRedraw).cycleCount = s.cycleCount := rfl
@[simp] theorem State.markRedraw_fault : (s.markRedraw).fault = s.fault := rfl
@[simp] theorem State.markRedraw_draws : (s.markRedraw).draws = s.draws := rfl
@[simp] theorem State.markRedraw_params : (s.markRedraw).params = s.params := rfl

/-! ## advance -/

@[simp] theorem State.advance_memory : (s.advance).memory = s.memory := rfl
@[simp] theorem State.advance_display : (s.advance).display = s.display := rfl
@[simp] theorem State.advance_redrawPending : (s.advance).redrawPending = s.redrawPending := rfl
@[simp] theorem State.advance_v : (s.advance).v = s.v := rfl
@[simp] theorem State.advance_i : (s.advance).i = s.i := rfl
@[simp] theorem State.advance_pc : (s.advance).pc = s.pc + 2 := rfl
@[simp] theorem State.advance_stack : (s.advance).stack = s.stack := rfl
@[simp] theorem State.advance_sp : (s.advance).sp = s.sp := rfl
@[simp] theorem State.advance_dt : (s.advance).dt = s.dt := rfl
@[simp] theorem State.advance_st : (s.advance).st = s.st := rfl
@[simp] theorem State.advance_key : (s.advance).key = s.key := rfl
@[simp] theorem State.advance_running : (s.advance).running = s.running := rfl
@[simp] theorem State.advance_halted : (s.advance).halted = s.halted := rfl
@[simp] theorem State.advance_cycleCount : (s.advance).cycleCount = s.cycleCount := rfl
@[simp] theorem State.advance_fault : (s.advance).fault = s.fault := rfl
@[simp] theorem State.advance_draws : (s.advance).draws = s.draws := rfl
@[simp] theorem State.advance_params : (s.advance).params = s.params := rfl

/-! ## skip -/

@[simp] theorem State.skip_memory : (s.skip).memory = s.memory := rfl
@[simp] theorem State.skip_display : (s.skip).display = s.display := rfl
@[simp] theorem State.skip_redrawPending : (s.skip).redrawPending = s.redrawPending := rfl
@[simp] theorem State.skip_v : (s.skip).v = s.v := rfl
@[simp] theorem State.skip_i : (s.skip).i = s.i := rfl
@[simp] theorem State.skip_pc : (s.skip).pc = s.pc + 4 := rfl
@[simp] theorem State.skip_stack : (s.skip).stack = s.stack := rfl
@[simp] theorem State.skip_sp : (s.skip).sp = s.sp := rfl
@[simp] theorem State.skip_dt : (s.skip).dt = s.dt := rfl
@[simp] theorem State.skip_st : (s.skip).st = s.st := rfl
@[simp] theorem State.skip_key : (s.skip).key = s.key := rfl
@[simp] theorem State.skip_running : (s.skip).running = s.running := rfl
@[simp] theorem State.skip_halted : (s.skip).halted = s.halted := rfl
@[simp] theorem State.skip_cycleCount : (s.skip).cycleCount = s.cycleCount := rfl
@[simp] theorem State.skip_fault : (s.skip).fault = s.fault := rfl
@[simp] theorem State.skip_draws : (s.skip).draws = s.draws := rfl
@[simp] theorem State.skip_params : (s.skip).params = s.params := rfl

/-! ## jumpTo -/

@[simp] theorem State.jumpTo_memory (w : Word) : (s.jumpTo w).memory = s.memory := rfl
@[simp] theorem State.jumpTo_display (w : Word) : (s.jumpTo w).display = s.display := rfl
@[simp] theorem State.jumpTo_redrawPending (w : Word) : (s.jumpTo w).redrawPending = s.redrawPending := rfl
@[simp] theorem State.jumpTo_v (w : Word) : (s.jumpTo w).v = s.v := rfl
@[simp] theorem State.jumpTo_i (w : Word) : (s.jumpTo w).i = s.i := rfl
@[simp] theorem State.jumpTo_pc (w : Word) : (s.jumpTo w).pc = w := rfl
@[simp] theorem State.jumpTo_stack (w : Word) : (s.jumpTo w).stack = s.stack := rfl
@[simp] theorem State.jumpTo_sp (w : Word) : (s.jumpTo w).sp = s.sp := rfl
@[simp] theorem State.jumpTo_dt (w : Word) : (s.jumpTo w).dt = s.dt := rfl
@[simp] theorem State.jumpTo_st (w : Word) : (s.jumpTo w).st = s.st := rfl
@[simp] theorem State.jumpTo_key (w : Word) : (s.jumpTo w).key = s.key := rfl
@[simp] theorem State.jumpTo_running (w : Word) : (s.jumpTo w).running = s.running := rfl
@[simp] theorem State.jumpTo_halted (w : Word) : (s.jumpTo w).halted = s.halted := rfl
@[simp] theorem State.jumpTo_cycleCount (w : Word) : (s.jumpTo w).cycleCount = s.cycleCount := rfl
@[simp] theorem State.jumpTo_fault (w : Word) : (s.jumpTo w).fault = s.fault := rfl
@[simp] theorem State.jumpTo_draws (w : Word) : (s.jumpTo w).draws = s.draws := rfl
@[simp] theorem State.jumpTo_params (w : Word) : (s.jumpTo w).params = s.params := rfl

/-! ## enterFault -/

@[simp] theorem State.enterFault_memory (k : FaultKind) (w : Word) : (s.enterFault k w).memory = s.memory := rfl
@[simp] theorem State.enterFault_display (k : FaultKind) (w : Word) : (s.enterFault k w).display = s.display := rfl
@[simp] theorem State.enterFault_redrawPending (k : FaultKind) (w : Word) : (s.enterFault k w).redrawPending = s.redrawPending := rfl
@[simp] theorem State.enterFault_v (k : FaultKind) (w : Word) : (s.enterFault k w).v = s.v := rfl
@[simp] theorem State.enterFault_i (k : FaultKind) (w : Word) : (s.enterFault k w).i = s.i := rfl
@[simp] theorem State.enterFault_pc (k : FaultKind) (w : Word) : (s.enterFault k w).pc = s.pc := rfl
@[simp] theorem State.enterFault_stack (k : FaultKind) (w : Word) : (s.enterFault k w).stack = s.stack := rfl
@[simp] theorem State.enterFault_sp (k : FaultKind) (w : Word) : (s.enterFault k w).sp = s.sp := rfl
@[simp] theorem State.enterFault_dt (k : FaultKind) (w : Word) : (s.enterFault k w).dt = s.dt := rfl
@[simp] theorem State.enterFault_st (k : FaultKind) (w : Word) : (s.enterFault k w).st = s.st := rfl
@[simp] theorem State.enterFault_key (k : FaultKind) (w : Word) : (s.enterFault k w).key = s.key := rfl
@[simp] theorem State.enterFault_running (k : FaultKind) (w : Word) : (s.enterFault k w).running = false := rfl
@[simp] theorem State.enterFault_halted (k : FaultKind) (w : Word) : (s.enterFault k w).halted = true := rfl
@[simp] theorem State.enterFault_cycleCount (k : FaultKind) (w : Word) : (s.enterFault k w).cycleCount = s.cycleCount := rfl
@[simp] theorem State.enterFault_fault (k : FaultKind) (w : Word) : (s.enterFault k w).fault = some ⟨k, s.pc, w⟩ := rfl
@[simp] theorem State.enterFault_draws (k : FaultKind) (w : Word) : (s.enterFault k w).draws = s.draws := rfl
@[simp] theorem State.enterFault_params (k : FaultKind) (w : Word) : (s.enterFault k w).params = s.params := rfl

/-! ## countCycle -/

@[simp] theorem State.countCycle_memory : (s.countCycle).memory = s.memory := rfl
@[simp] theorem State.countCycle_display : (s.countCycle).display = s.display := rfl
@[simp] theorem State.countCycle_redrawPending : (s.countCycle).redrawPending = s.redrawPending := rfl
@[simp] theorem State.countCycle_v : (s.countCycle).v = s.v := rfl
@[simp] theorem State.countCycle_i : (s.countCycle).i = s.i := rfl
@[simp] theorem State.countCycle_pc : (s.countCycle).pc = s.pc := rfl
@[simp] theorem State.countCycle_stack : (s.countCycle).stack = s.stack := rfl
@[simp] theorem State.countCycle_sp : (s.countCycle).sp = s.sp := rfl
@[simp] theorem State.countCycle_dt : (s.countCycle).dt = s.dt := rfl
@[simp] theorem State.countCycle_st : (s.countCycle).st = s.st := rfl
@[simp] theorem State.countCycle_key : (s.countCycle).key = s.key := rfl
@[simp] theorem State.countCycle_running : (s.countCycle).running = s.running := rfl
@[simp] theorem State.countCycle_halted : (s.countCycle).halted = s.halted := rfl
@[simp] theorem State.countCycle_cycleCount : (s.countCycle).cycleCount = s.cycleCount + 1 := rfl
@[simp] theorem State.countCycle_fault : (s.countCycle).fault = s.fault := rfl
@[simp] theorem State.countCycle_draws : (s.countCycle).draws = s.draws := rfl
@[simp] theorem State.countCycle_params : (s.countCycle).params = s.params := rfl

/-! ## writeResult -/

@[simp] theorem State.writeResult_memory (x : Nibble) (r f : Byte) : (s.writeResult x r f).memory = s.memory := rfl
@[simp] theorem State.writeResult_display (x : Nibble) (r f : Byte) : (s.writeResult x r f).display = s.display := rfl
@[simp] theorem State.writeResult_redrawPending (x : Nibble) (r f : Byte) : (s.writeResult x r f).redrawPending = s.redrawPending := rfl
@[simp] theorem State.writeResult_v (x : Nibble) (r f : Byte) : (s.writeResult x r f).v = (s.v.set x.toNat r x.isLt).set vf.toNat f vf.isLt := rfl
@[simp] theorem State.writeResult_i (x : Nibble) (r f : Byte) : (s.writeResult x r f).i = s.i := rfl
@[simp] theorem State.writeResult_pc (x : Nibble) (r f : Byte) : (s.writeResult x r f).pc = s.pc := rfl
@[simp] theorem State.writeResult_stack (x : Nibble) (r f : Byte) : (s.writeResult x r f).stack = s.stack := rfl
@[simp] theorem State.writeResult_sp (x : Nibble) (r f : Byte) : (s.writeResult x r f).sp = s.sp := rfl
@[simp] theorem State.writeResult_dt (x : Nibble) (r f : Byte) : (s.writeResult x r f).dt = s.dt := rfl
@[simp] theorem State.writeResult_st (x : Nibble) (r f : Byte) : (s.writeResult x r f).st = s.st := rfl
@[simp] theorem State.writeResult_key (x : Nibble) (r f : Byte) : (s.writeResult x r f).key = s.key := rfl
@[simp] theorem State.writeResult_running (x : Nibble) (r f : Byte) : (s.writeResult x r f).running = s.running := rfl
@[simp] theorem State.writeResult_halted (x : Nibble) (r f : Byte) : (s.writeResult x r f).halted = s.halted := rfl
@[simp] theorem State.writeResult_cycleCount (x : Nibble) (r f : Byte) : (s.writeResult x r f).cycleCount = s.cycleCount := rfl
@[simp] theorem State.writeResult_fault (x : Nibble) (r f : Byte) : (s.writeResult x r f).fault = s.fault := rfl
@[simp] theorem State.writeResult_draws (x : Nibble) (r f : Byte) : (s.writeResult x r f).draws = s.draws := rfl
@[simp] theorem State.writeResult_params (x : Nibble) (r f : Byte) : (s.writeResult x r f).params = s.params := rfl

/-! ## skipIf and stay -/

@[simp] theorem State.skipIf_memory (c : Bool) : (s.skipIf c).memory = s.memory := by cases c <;> rfl
@[simp] theorem State.skipIf_display (c : Bool) : (s.skipIf c).display = s.display := by cases c <;> rfl
@[simp] theorem State.skipIf_redrawPending (c : Bool) : (s.skipIf c).redrawPending = s.redrawPending := by cases c <;> rfl
@[simp] theorem State.skipIf_v (c : Bool) : (s.skipIf c).v = s.v := by cases c <;> rfl
@[simp] theorem State.skipIf_i (c : Bool) : (s.skipIf c).i = s.i := by cases c <;> rfl
@[simp] theorem State.skipIf_stack (c : Bool) : (s.skipIf c).stack = s.stack := by cases c <;> rfl
@[simp] theorem State.skipIf_sp (c : Bool) : (s.skipIf c).sp = s.sp := by cases c <;> rfl
@[simp] theorem State.skipIf_dt (c : Bool) : (s.skipIf c).dt = s.dt := by cases c <;> rfl
@[simp] theorem State.skipIf_st (c : Bool) : (s.skipIf c).st = s.st := by cases c <;> rfl
@[simp] theorem State.skipIf_key (c : Bool) : (s.skipIf c).key = s.key := by cases c <;> rfl
@[simp] theorem State.skipIf_running (c : Bool) : (s.skipIf c).running = s.running := by cases c <;> rfl
@[simp] theorem State.skipIf_halted (c : Bool) : (s.skipIf c).halted = s.halted := by cases c <;> rfl
@[simp] theorem State.skipIf_cycleCount (c : Bool) : (s.skipIf c).cycleCount = s.cycleCount := by cases c <;> rfl
@[simp] theorem State.skipIf_fault (c : Bool) : (s.skipIf c).fault = s.fault := by cases c <;> rfl
@[simp] theorem State.skipIf_draws (c : Bool) : (s.skipIf c).draws = s.draws := by cases c <;> rfl
@[simp] theorem State.skipIf_params (c : Bool) : (s.skipIf c).params = s.params := by cases c <;> rfl
@[simp] theorem State.skipIf_pc (c : Bool) : (s.skipIf c).pc = if c then s.pc + 4 else s.pc + 2 := by cases c <;> rfl
@[simp] theorem State.stay_eq : s.stay = s := rfl

end Sys2Proof.Machine
end

