-- ==== Sys2Proof/Laws/Memory.lean ====
section
/-! SUPPORT. Reads after writes hold of every list; writes keep the canonical form. -/

namespace Sys2Proof.Machine

/-! ## The list -/

theorem Memory.read_insert (font : Font) (m : Memory) (a b : Nat) (v : Byte) (h : ∀ c ∈ m, c.1 ≠ a) :
    Memory.read font (Memory.insert a v m) b = if b = a then v else Memory.read font m b := by
  induction m with
  | nil => simp [Memory.insert, Memory.read]
  | cons c rest ih =>
    obtain ⟨d, u⟩ := c
    have hd : d ≠ a := h (d, u) (by simp)
    have ih := ih fun c hc => h c (by simp [hc])
    by_cases hlt : a < d
    · simp [Memory.insert, Memory.read, hlt]
    · simp only [Memory.insert, Memory.read, hlt, if_false, ih]
      split_ifs with h1 h2 <;> simp_all

theorem Memory.read_erase (font : Font) (m : Memory) (a b : Nat) :
    Memory.read font (Memory.erase m a) b = if b = a then initialByte font b else Memory.read font m b := by
  induction m with
  | nil => simp [Memory.erase, Memory.read]
  | cons c rest ih =>
    obtain ⟨d, u⟩ := c
    simp only [Memory.erase] at ih
    by_cases hd : d = a
    · subst hd
      simp only [Memory.erase, List.filter_cons, ne_eq, not_true_eq_false, decide_false, Memory.read]
      split_ifs <;> simp_all
    · simp only [Memory.erase, List.filter_cons, ne_eq, hd, not_false_eq_true, decide_true, if_true, Memory.read, ih]
      split_ifs <;> simp_all

theorem Memory.erase_ne (m : Memory) (a : Nat) : ∀ c ∈ Memory.erase m a, c.1 ≠ a := by
  intro c hc
  simpa using (List.mem_filter.mp hc).2

/-- A byte read after a write is the byte written at that address and the old byte elsewhere. -/
theorem Memory.read_write (font : Font) (m : Memory) (a b : Nat) (v : Byte) :
    Memory.read font (Memory.write font m a v) b = if b = a then v else Memory.read font m b := by
  unfold Memory.write
  split
  · rename_i hv
    rw [Memory.read_erase]
    split_ifs with h
    · rw [h, hv]
    · rfl
  · rw [Memory.read_insert font _ a b v (Memory.erase_ne m a), Memory.read_erase]
    split_ifs <;> rfl

theorem Memory.mem_insert (a : Nat) (v : Byte) (m : Memory) (c : Host.Cell) :
    c ∈ Memory.insert a v m ↔ c = (a, v) ∨ c ∈ m := by
  induction m with
  | nil => simp [Memory.insert]
  | cons d rest ih =>
    obtain ⟨d, u⟩ := d
    by_cases hlt : a < d
    · simp [Memory.insert, hlt]
    · simp only [Memory.insert, hlt, if_false, List.mem_cons, ih]
      tauto

theorem Memory.insert_rising (a : Nat) (v : Byte) (m : Memory) (hm : m.Pairwise (fun c d => c.1 < d.1))
    (h : ∀ c ∈ m, c.1 ≠ a) : (Memory.insert a v m).Pairwise (fun c d => c.1 < d.1) := by
  induction m with
  | nil => simp [Memory.insert]
  | cons d rest ih =>
    obtain ⟨d, u⟩ := d
    rw [List.pairwise_cons] at hm
    have hda : d ≠ a := h (d, u) (by simp)
    by_cases hlt : a < d
    · simp only [Memory.insert, hlt, if_true, List.pairwise_cons]
      refine ⟨?_, hm⟩
      intro c hc
      rcases List.mem_cons.mp hc with rfl | hc
      · exact hlt
      · exact lt_trans hlt (hm.1 c hc)
    · simp only [Memory.insert, hlt, if_false, List.pairwise_cons]
      refine ⟨?_, ih hm.2 fun c hc => h c (by simp [hc])⟩
      intro c hc
      rcases (Memory.mem_insert a v rest c).mp hc with rfl | hc
      · exact lt_of_le_of_ne (not_lt.mp hlt) hda
      · exact hm.1 c hc

/-- A write below 4096 keeps the canonical form. -/
theorem Memory.write_wf (font : Font) (m : Memory) (a : Nat) (v : Byte) (ha : a < Config.memSize)
    (hm : Memory.wf font m) : Memory.wf font (Memory.write font m a v) := by
  obtain ⟨hr, hv⟩ := hm
  have hre : (Memory.erase m a).Pairwise (fun c d => c.1 < d.1) := hr.filter _
  have hve : ∀ c ∈ Memory.erase m a, c.1 < Config.memSize ∧ c.2 ≠ initialByte font c.1 :=
    fun c hc => hv c (List.mem_filter.mp hc).1
  unfold Memory.write
  split
  · exact ⟨hre, hve⟩
  · rename_i hne
    refine ⟨Memory.insert_rising a v _ hre (Memory.erase_ne m a), ?_⟩
    intro c hc
    rcases (Memory.mem_insert a v _ c).mp hc with rfl | hc
    · exact ⟨ha, hne⟩
    · exact hve c hc

/-! ## Reads of the state -/

theorem eff_lt (a : Nat) : eff a < Config.memSize :=
  Nat.mod_lt _ (by decide)

theorem eff_of_lt {a : Nat} (h : a < Config.memSize) : eff a = a :=
  Nat.mod_eq_of_lt h

theorem eff_add_inj {a j k : Nat} (hj : j < 4096) (hk : k < 4096) : eff (a + j) = eff (a + k) ↔ j = k := by
  unfold eff
  constructor
  · intro h
    have h2 : (a + j) % 4096 = (a + k) % 4096 := h
    omega
  · rintro rfl
    rfl

theorem State.byteAt_setByte (s : State) (a b : Nat) (v : Byte) :
    (s.setByte a v).byteAt b = if b = a then v else s.byteAt b :=
  Memory.read_write _ _ _ _ _

/-- A core read after a core write (20_memory R70, R61). -/
theorem State.memRead_memWrite (s : State) (a b : Nat) (v : Byte) :
    (s.memWrite a v).memRead b = if eff b = eff a then v else s.memRead b :=
  Memory.read_write _ _ _ _ _

theorem State.setByte_wf (s : State) (a : Nat) (v : Byte) (ha : a < Config.memSize)
    (h : Memory.wf s.params.font s.memory) : Memory.wf (s.setByte a v).params.font (s.setByte a v).memory :=
  Memory.write_wf _ _ _ _ ha h

theorem State.memWrite_wf (s : State) (a : Nat) (v : Byte)
    (h : Memory.wf s.params.font s.memory) : Memory.wf (s.memWrite a v).params.font (s.memWrite a v).memory :=
  Memory.write_wf _ _ _ _ (eff_lt a) h

/-- Reads depend on the memory and the font alone. -/
theorem State.memRead_congr {s t : State} (hm : t.memory = s.memory) (hp : t.params = s.params) (a : Nat) :
    t.memRead a = s.memRead a := by
  simp [State.memRead, State.byteAt, hm, hp]

theorem State.byteAt_congr {s t : State} (hm : t.memory = s.memory) (hp : t.params = s.params) (a : Nat) :
    t.byteAt a = s.byteAt a := by
  simp [State.byteAt, hm, hp]

/-- The reset state's memory is canonical. -/
theorem reset_memory_wf : Memory.wf State.reset.params.font State.reset.memory := by
  simp [State.reset, Memory.wf]

end Sys2Proof.Machine
end

