-- ==== Sys2Proof/Laws/Registers.lean ====
section
/-! SUPPORT. Reads of V after each update, and what push, pop and the key choice can answer. -/

namespace Sys2Proof.Machine

/-! ## V registers -/

/-- A register read after a register write. -/
@[simp] theorem State.readV_writeV (s : State) (x y : Nibble) (b : Byte) :
    (s.writeV x b).readV y = if y = x then b else s.readV y := by
  simp only [State.readV, State.writeV, Vector.getElem_set, ← BitVec.toNat_inj]
  split_ifs <;> first | rfl | omega

theorem State.readV_congr {s t : State} (h : t.v = s.v) (x : Nibble) : t.readV x = s.readV x := by
  simp [State.readV, h]

@[simp] theorem State.readV_memWrite (s : State) (a : Nat) (b : Byte) (x : Nibble) :
    (s.memWrite a b).readV x = s.readV x := rfl

@[simp] theorem State.readV_setByte (s : State) (a : Nat) (b : Byte) (x : Nibble) :
    (s.setByte a b).readV x = s.readV x := rfl

@[simp] theorem State.readV_setI (s : State) (w : Word) (x : Nibble) : (s.setI w).readV x = s.readV x := rfl

@[simp] theorem State.readV_setPc (s : State) (w : Word) (x : Nibble) : (s.setPc w).readV x = s.readV x := rfl

@[simp] theorem State.readV_setDt (s : State) (b : Byte) (x : Nibble) : (s.setDt b).readV x = s.readV x := rfl

@[simp] theorem State.readV_setSt (s : State) (b : Byte) (x : Nibble) : (s.setSt b).readV x = s.readV x := rfl

@[simp] theorem State.readV_countDraw (s : State) (x : Nibble) : s.countDraw.readV x = s.readV x := rfl

@[simp] theorem State.readV_setDisplay (s : State) (d : Display) (x : Nibble) :
    (s.setDisplay d).readV x = s.readV x := rfl

@[simp] theorem State.readV_markRedraw (s : State) (x : Nibble) : s.markRedraw.readV x = s.readV x := rfl

@[simp] theorem State.readV_advance (s : State) (x : Nibble) : s.advance.readV x = s.readV x := rfl

@[simp] theorem State.readV_skip (s : State) (x : Nibble) : s.skip.readV x = s.readV x := rfl

@[simp] theorem State.readV_jumpTo (s : State) (w : Word) (x : Nibble) : (s.jumpTo w).readV x = s.readV x := rfl

@[simp] theorem State.readV_enterFault (s : State) (k : FaultKind) (w : Word) (x : Nibble) :
    (s.enterFault k w).readV x = s.readV x := rfl

@[simp] theorem State.readV_countCycle (s : State) (x : Nibble) : s.countCycle.readV x = s.readV x := rfl

/-- A result and then its flag: VF reads as the flag, whatever the destination (43_alu R192). -/
@[simp] theorem State.readV_writeResult (s : State) (x y : Nibble) (r f : Byte) :
    (s.writeResult x r f).readV y = if y = vf then f else if y = x then r else s.readV y := by
  simp [State.writeResult]

/-! ## Memory reads after the updates that store nothing -/

@[simp] theorem State.memRead_writeV (s : State) (x : Nibble) (b : Byte) (a : Nat) :
    (s.writeV x b).memRead a = s.memRead a := rfl

@[simp] theorem State.memRead_writeResult (s : State) (x : Nibble) (r f : Byte) (a : Nat) :
    (s.writeResult x r f).memRead a = s.memRead a := rfl

@[simp] theorem State.memRead_setI (s : State) (w : Word) (a : Nat) : (s.setI w).memRead a = s.memRead a := rfl

@[simp] theorem State.memRead_setPc (s : State) (w : Word) (a : Nat) : (s.setPc w).memRead a = s.memRead a := rfl

@[simp] theorem State.memRead_setDt (s : State) (b : Byte) (a : Nat) : (s.setDt b).memRead a = s.memRead a := rfl

@[simp] theorem State.memRead_setSt (s : State) (b : Byte) (a : Nat) : (s.setSt b).memRead a = s.memRead a := rfl

@[simp] theorem State.memRead_countDraw (s : State) (a : Nat) : s.countDraw.memRead a = s.memRead a := rfl

@[simp] theorem State.memRead_setDisplay (s : State) (d : Display) (a : Nat) :
    (s.setDisplay d).memRead a = s.memRead a := rfl

@[simp] theorem State.memRead_markRedraw (s : State) (a : Nat) : s.markRedraw.memRead a = s.memRead a := rfl

@[simp] theorem State.memRead_advance (s : State) (a : Nat) : s.advance.memRead a = s.memRead a := rfl

@[simp] theorem State.memRead_skip (s : State) (a : Nat) : s.skip.memRead a = s.memRead a := rfl

@[simp] theorem State.memRead_jumpTo (s : State) (w : Word) (a : Nat) : (s.jumpTo w).memRead a = s.memRead a := rfl

@[simp] theorem State.memRead_enterFault (s : State) (k : FaultKind) (w : Word) (a : Nat) :
    (s.enterFault k w).memRead a = s.memRead a := rfl

@[simp] theorem State.memRead_countCycle (s : State) (a : Nat) : s.countCycle.memRead a = s.memRead a := rfl

/-! ## The stack -/

/-- All that a push can answer (41_control_flow R134). -/
theorem State.push_cases (s : State) (ret : Word) :
    (∃ h : s.sp.val < 16, s.push ret = some { s with
        stack := s.stack.set s.sp.val ret h, sp := ⟨s.sp.val + 1, Nat.succ_lt_succ h⟩ }) ∨
    (s.sp.val = 16 ∧ s.push ret = none) := by
  by_cases h : s.sp.val < 16
  · exact .inl ⟨h, by simp [State.push, h]⟩
  · exact .inr ⟨by omega, by simp [State.push, h]⟩

/-- All that a pop can answer (41_control_flow R132). -/
theorem State.pop_cases (s : State) :
    (∃ h : 0 < s.sp.val, s.pop = some (s.stack[s.sp.val - 1]'(by omega),
        { s with sp := ⟨s.sp.val - 1, by omega⟩ })) ∨
    (s.sp.val = 0 ∧ s.pop = none) := by
  by_cases h : 0 < s.sp.val
  · exact .inl ⟨h, by simp [State.pop, h]⟩
  · exact .inr ⟨by omega, by simp [State.pop, h]⟩

/-! ## The keys -/

/-- A byte reads as pressed exactly when it is the index of a pressed latch (42_skips R164). -/
theorem State.pressed_iff (s : State) (b : Byte) :
    s.pressed b = true ↔ ∃ k : Fin 16, k.val = b.toNat ∧ s.key.get k = true := by
  unfold State.pressed
  split
  · rename_i h
    refine ⟨fun e => ⟨⟨b.toNat, h⟩, rfl, e⟩, ?_⟩
    rintro ⟨k, e, hk⟩
    obtain rfl : k = ⟨b.toNat, h⟩ := Fin.ext e
    exact hk
  · rename_i h
    simp only [Bool.false_eq_true, false_iff]
    rintro ⟨k, e, -⟩
    exact h (e ▸ k.isLt)

/-- No key is chosen exactly when none is pressed. -/
theorem lowestKey_eq_none (keys : KeyVector) : lowestKey keys = none ↔ ∀ k : Fin 16, keys.get k = false := by
  simp [lowestKey]

/-- The chosen key of the default parameter is pressed, and no lower one is (46_timers_keys R242). -/
theorem lowestKey_eq_some (keys : KeyVector) (k : Fin 16) :
    lowestKey keys = some k ↔ keys.get k = true ∧ ∀ j < k, keys.get j = false := by
  revert k
  have key : ∀ f : Fin 16 → Bool, ∀ k, (List.finRange 16).find? f = some k ↔ f k = true ∧ ∀ j < k, f j = false := by
    intro f k
    rw [List.find?_eq_some_iff_getElem]
    constructor
    · rintro ⟨hk, n, hn, hnk, hlow⟩
      refine ⟨hk, fun j hj => ?_⟩
      have hj2 : j.val < n := by
        have : k.val = n := by rw [← hnk]; simp
        omega
      simpa using hlow j.val hj2
    · rintro ⟨hk, hlow⟩
      refine ⟨hk, k.val, by simp, by simp, fun j hj => ?_⟩
      simpa using hlow ⟨j, by omega⟩ hj
  exact key _

end Sys2Proof.Machine
end

