-- ==== Sys2Proof/Laws/Blocks.lean ====
section
/-! SUPPORT. What storing and loading a block of registers, and storing decimal digits, does to each byte and register. -/

namespace Sys2Proof.Machine

theorem blockReg_toNat {k : Nat} (h : k < 16) : (blockReg k).toNat = k := by
  simp [blockReg]; omega

theorem blockReg_inj {j k : Nat} (hj : j < 16) (hk : k < 16) : blockReg j = blockReg k ↔ j = k := by
  rw [← BitVec.toNat_inj, blockReg_toNat hj, blockReg_toNat hk]

theorem blockLength_le (x : Nibble) : blockLength x ≤ 16 := by
  have := x.isLt; unfold blockLength; omega

/-! ## Storing a block -/

/-- A block store changes memory alone. -/
theorem State.storeBlock_eq (s : State) (i0 : Word) (k : Nat) :
    s.storeBlock i0 k = { s with memory := (s.storeBlock i0 k).memory } := by
  induction k with
  | zero => rfl
  | succ k ih =>
    rw [State.storeBlock, ih]
    rfl

@[simp] theorem State.storeBlock_readV (s : State) (i0 : Word) (k : Nat) (x : Nibble) :
    (s.storeBlock i0 k).readV x = s.readV x := by
  rw [State.storeBlock_eq]; rfl

@[simp] theorem State.storeBlock_params (s : State) (i0 : Word) (k : Nat) : (s.storeBlock i0 k).params = s.params := by
  rw [State.storeBlock_eq]

/-- The bytes of a block store: register j at offset j. -/
theorem State.memRead_storeBlock (s : State) (i0 : Word) (k j : Nat) (hk : k ≤ 16) (hj : j < k) :
    (s.storeBlock i0 k).memRead (indexAddr i0 j) = s.readV (blockReg j) := by
  induction k with
  | zero => omega
  | succ k ih =>
    rw [State.storeBlock, State.memRead_memWrite]
    rcases Nat.lt_succ_iff_lt_or_eq.mp hj with h | rfl
    · have hne : ¬ eff (indexAddr i0 j) = eff (indexAddr i0 k) := by
        unfold indexAddr
        rw [eff_add_inj (by omega) (by omega)]
        omega
      simp [hne, ih (by omega) h]
    · simp

/-- Every byte outside a block store is as before. -/
theorem State.memRead_storeBlock_outside (s : State) (i0 : Word) (k a : Nat)
    (h : ∀ j < k, eff a ≠ eff (indexAddr i0 j)) : (s.storeBlock i0 k).memRead a = s.memRead a := by
  induction k with
  | zero => rfl
  | succ k ih =>
    rw [State.storeBlock, State.memRead_memWrite, if_neg (h k (by omega)), ih fun j hj => h j (by omega)]

theorem State.storeBlock_wf (s : State) (i0 : Word) (k : Nat) (h : Memory.wf s.params.font s.memory) :
    Memory.wf s.params.font (s.storeBlock i0 k).memory := by
  induction k with
  | zero => exact h
  | succ k ih =>
    have := State.memWrite_wf (s.storeBlock i0 k) (indexAddr i0 k) (s.readV (blockReg k))
      (by simpa using ih)
    simpa [State.storeBlock] using this

/-! ## Loading a block -/

/-- A block load changes V alone. -/
theorem State.loadBlock_eq (s : State) (i0 : Word) (k : Nat) :
    s.loadBlock i0 k = { s with v := (s.loadBlock i0 k).v } := by
  induction k with
  | zero => rfl
  | succ k ih =>
    rw [State.loadBlock, ih]
    rfl

/-- The registers after a block load: those of the block from memory, the others as before. -/
theorem State.readV_loadBlock (s : State) (i0 : Word) (k : Nat) (hk : k ≤ 16) (y : Nibble) :
    (s.loadBlock i0 k).readV y = if y.toNat < k then s.memRead (indexAddr i0 y.toNat) else s.readV y := by
  induction k with
  | zero => simp [State.loadBlock]
  | succ k ih =>
    rw [State.loadBlock, State.readV_writeV, ih (by omega)]
    have hy : y = blockReg k ↔ y.toNat = k := by
      rw [← BitVec.toNat_inj, blockReg_toNat (by omega)]
    by_cases h1 : y.toNat = k
    · simp [hy, h1]
    · by_cases h2 : y.toNat < k
      · simp [hy, h1, h2, Nat.lt_succ_of_lt h2]
      · have : ¬ y.toNat < k + 1 := by omega
        simp [hy, h1, h2, this]

/-! ## Decimal digits -/

/-- The byte at an address after the three digits are stored. -/
theorem State.memRead_storeDigits (s : State) (i0 : Word) (b : Byte) (a : Nat) :
    (s.storeDigits i0 b).memRead a =
      if eff a = eff (indexAddr i0 2) then decimalDigit b 1
      else if eff a = eff (indexAddr i0 1) then decimalDigit b 10
      else if eff a = eff (indexAddr i0 0) then decimalDigit b 100
      else s.memRead a := by
  simp only [State.storeDigits, State.memRead_memWrite]

/-- Storing digits changes memory alone. -/
theorem State.storeDigits_eq (s : State) (i0 : Word) (b : Byte) :
    s.storeDigits i0 b = { s with memory := (s.storeDigits i0 b).memory } := rfl

theorem State.storeDigits_wf (s : State) (i0 : Word) (b : Byte) (h : Memory.wf s.params.font s.memory) :
    Memory.wf s.params.font (s.storeDigits i0 b).memory :=
  State.memWrite_wf _ _ _ (State.memWrite_wf _ _ _ (State.memWrite_wf _ _ _ h))

theorem decimalDigit_toNat (b : Byte) (d : Nat) : (decimalDigit b d).toNat = b.toNat / d % 10 := by
  have : b.toNat / d % 10 < 256 := by omega
  simp [decimalDigit, Nat.mod_eq_of_lt this]

end Sys2Proof.Machine
end

