-- ==== Sys2Proof/Laws/Encoding.lean ====
section
/-! SUPPORT. The fields of a word assembled from fields, and a word as its own fields: what proofs about the decoder and the
encoder cite, so that none of them computes with bits. -/

namespace Sys2Proof

/-! ## Fields of an assembled word -/

theorem extract_high {m n : Nat} (a : BitVec m) (b : BitVec n) (s k : Nat) (h : n ≤ s) :
    (a ++ b).extractLsb' s k = a.extractLsb' (s - n) k := by
  ext i hi
  have h1 : ¬ s + i < n := by omega
  have h2 : s + i - n = s - n + i := by omega
  simp [BitVec.getLsbD_append, h1, h2]

theorem extract_low {m n : Nat} (a : BitVec m) (b : BitVec n) (s k : Nat) (h : s + k ≤ n) :
    (a ++ b).extractLsb' s k = b.extractLsb' s k := by
  ext i hi
  have h1 : s + i < n := by omega
  simp [BitVec.getLsbD_append, h1]

theorem extract_all {n : Nat} (b : BitVec n) : b.extractLsb' 0 n = b := by
  ext i hi
  simp

@[simp] theorem describe_op_address (o : Nibble) (a : Addr12) : (describe (o ++ a)).op = o :=
  (extract_high o a 12 4 (by decide)).trans (extract_all o)

@[simp] theorem describe_nnn_address (o : Nibble) (a : Addr12) : (describe (o ++ a)).nnn = a :=
  (extract_low o a 0 12 (by decide)).trans (extract_all a)

@[simp] theorem describe_op_byte (o x : Nibble) (b : Byte) : (describe (o ++ x ++ b)).op = o :=
  ((extract_high (o ++ x) b 12 4 (by decide)).trans (extract_high o x 4 4 (by decide))).trans (extract_all o)

@[simp] theorem describe_x_byte (o x : Nibble) (b : Byte) : (describe (o ++ x ++ b)).x = x :=
  ((extract_high (o ++ x) b 8 4 (by decide)).trans (extract_low o x 0 4 (by decide))).trans (extract_all x)

@[simp] theorem describe_nn_byte (o x : Nibble) (b : Byte) : (describe (o ++ x ++ b)).nn = b :=
  (extract_low (o ++ x) b 0 8 (by decide)).trans (extract_all b)

@[simp] theorem describe_op_nibbles (o x y n : Nibble) : (describe (o ++ x ++ y ++ n)).op = o :=
  (((extract_high (o ++ x ++ y) n 12 4 (by decide)).trans (extract_high (o ++ x) y 8 4 (by decide))).trans
    (extract_high o x 4 4 (by decide))).trans (extract_all o)

@[simp] theorem describe_x_nibbles (o x y n : Nibble) : (describe (o ++ x ++ y ++ n)).x = x :=
  (((extract_high (o ++ x ++ y) n 8 4 (by decide)).trans (extract_high (o ++ x) y 4 4 (by decide))).trans
    (extract_low o x 0 4 (by decide))).trans (extract_all x)

@[simp] theorem describe_y_nibbles (o x y n : Nibble) : (describe (o ++ x ++ y ++ n)).y = y :=
  ((extract_high (o ++ x ++ y) n 4 4 (by decide)).trans (extract_low (o ++ x) y 0 4 (by decide))).trans (extract_all y)

@[simp] theorem describe_n_nibbles (o x y n : Nibble) : (describe (o ++ x ++ y ++ n)).n = n :=
  (extract_low (o ++ x ++ y) n 0 4 (by decide)).trans (extract_all n)

/-! ## A word from its own fields -/

theorem append_extract {m n k : Nat} (w : BitVec k) (s : Nat) :
    w.extractLsb' (s + n) m ++ w.extractLsb' s n = w.extractLsb' s (m + n) := by
  ext i hi
  simp only [BitVec.getElem_append, BitVec.getElem_extractLsb']
  split
  · rfl
  · rename_i h
    congr 1
    omega

theorem address_of_describe (w : Word) : (describe w).op ++ (describe w).nnn = w :=
  (append_extract (m := 4) (n := 12) w 0).trans (extract_all w)

theorem byte_of_describe (w : Word) : (describe w).op ++ (describe w).x ++ (describe w).nn = w :=
  (congrArg (· ++ (describe w).nn) (append_extract (m := 4) (n := 4) w 8)).trans
    ((append_extract (m := 8) (n := 8) w 0).trans (extract_all w))

theorem nibbles_of_describe (w : Word) :
    (describe w).op ++ (describe w).x ++ (describe w).y ++ (describe w).n = w :=
  (congrArg (· ++ (describe w).y ++ (describe w).n) (append_extract (m := 4) (n := 4) w 8)).trans
    ((congrArg (· ++ (describe w).n) (append_extract (m := 8) (n := 4) w 4)).trans
      ((append_extract (m := 12) (n := 4) w 0).trans (extract_all w)))

/-- Every value of a field of four bits, for a case split on `op` or on a selector. -/
theorem nibble_cases (n : Nibble) :
    n = 0 ∨ n = 1 ∨ n = 2 ∨ n = 3 ∨ n = 4 ∨ n = 5 ∨ n = 6 ∨ n = 7 ∨
      n = 8 ∨ n = 9 ∨ n = 10 ∨ n = 11 ∨ n = 12 ∨ n = 13 ∨ n = 14 ∨ n = 15 := by
  revert n; decide

/-! ## Bytes of a word -/

/-- The bytes of a word give the word back (20_memory R64). -/
theorem wordOfBytes_of_halves (w : Word) : wordOfBytes (w.extractLsb' 8 8) (w.extractLsb' 0 8) = w :=
  (append_extract (m := 8) (n := 8) w 0).trans (extract_all w)

/-- Decoding the two bytes of a word, with more bytes after them, decodes the word. -/
theorem decode_bytesOfWord (w : Word) (rest : List Byte) :
    decode (bytesOfWord w ++ rest) =
      match decodeWord w with
      | .ok i => .ok (i, rest)
      | .error e => .error e := by
  have h := wordOfBytes_of_halves w
  cases e : decodeWord w <;> simp [bytesOfWord, decode, h, e]

/-! ## Masks of an assembled word -/

theorem and_append {m n : Nat} (a c : BitVec m) (b d : BitVec n) : (a ++ b) &&& (c ++ d) = (a &&& c) ++ (b &&& d) := by
  ext i hi
  simp only [BitVec.getElem_and, BitVec.getElem_append]
  split <;> simp

theorem and_nibble_ones (o : Nibble) : o &&& 0xF#4 = o := BitVec.and_allOnes

theorem and_byte_ones (b : Byte) : b &&& 0xFF#8 = b := BitVec.and_allOnes

theorem mask_op_address (o : Nibble) (a : Addr12) : (o ++ a : Word) &&& 0xF000#16 = o ++ 0#12 := by
  refine (and_append o 0xF#4 a 0#12).trans ?_
  simp [and_nibble_ones]

theorem mask_op_byte (o x : Nibble) (b : Byte) : (o ++ x ++ b : Word) &&& 0xF000#16 = o ++ 0#4 ++ 0#8 := by
  refine (and_append (o ++ x) 0xF0#8 b 0x00#8).trans ?_
  rw [show (o ++ x) &&& 0xF0#8 = (o &&& 0xF#4) ++ (x &&& 0#4) from and_append o 0xF#4 x 0#4]
  simp [and_nibble_ones]

theorem mask_selector_byte (o x : Nibble) (b : Byte) : (o ++ x ++ b : Word) &&& 0xF0FF#16 = o ++ 0#4 ++ b := by
  refine (and_append (o ++ x) 0xF0#8 b 0xFF#8).trans ?_
  rw [show (o ++ x) &&& 0xF0#8 = (o &&& 0xF#4) ++ (x &&& 0#4) from and_append o 0xF#4 x 0#4]
  simp [and_nibble_ones, and_byte_ones]

theorem mask_op_nibbles (o x y n : Nibble) :
    (o ++ x ++ y ++ n : Word) &&& 0xF000#16 = o ++ 0#4 ++ 0#4 ++ 0#4 := by
  refine (and_append (o ++ x ++ y) 0xF00#12 n 0#4).trans ?_
  rw [show (o ++ x ++ y) &&& 0xF00#12 = ((o ++ x) &&& 0xF0#8) ++ (y &&& 0#4) from and_append (o ++ x) 0xF0#8 y 0#4,
    show (o ++ x) &&& 0xF0#8 = (o &&& 0xF#4) ++ (x &&& 0#4) from and_append o 0xF#4 x 0#4]
  simp [and_nibble_ones]

theorem mask_selector_nibbles (o x y n : Nibble) :
    (o ++ x ++ y ++ n : Word) &&& 0xF00F#16 = o ++ 0#4 ++ 0#4 ++ n := by
  refine (and_append (o ++ x ++ y) 0xF00#12 n 0xF#4).trans ?_
  rw [show (o ++ x ++ y) &&& 0xF00#12 = ((o ++ x) &&& 0xF0#8) ++ (y &&& 0#4) from and_append (o ++ x) 0xF0#8 y 0#4,
    show (o ++ x) &&& 0xF0#8 = (o &&& 0xF#4) ++ (x &&& 0#4) from and_append o 0xF#4 x 0#4]
  simp [and_nibble_ones]

end Sys2Proof
end

