-- ==== Sys2Proof/Laws/Disasm.lean ====
section
/-! SUPPORT. The hex digits of an operand name it, and what a disassembly renders in each of its three cases. -/

namespace Sys2Proof.Machine

/-- Two bytes with the same hex digits are the same. -/
theorem hexByte_inj {a b : Byte} : hexByte a = hexByte b ↔ a = b := by
  constructor
  · intro h
    simp only [hexByte, DisasmOperand.byte.injEq] at h
    have split (w : Byte) : w = w.extractLsb' 4 4 ++ w.extractLsb' 0 4 :=
      ((append_extract (m := 4) (n := 4) w 0).trans (extract_all w)).symm
    rw [split a, split b, h.1, h.2]
  · rintro rfl; rfl

/-- Two addresses with the same hex digits are the same. -/
theorem hexAddr_inj {a b : Addr12} : hexAddr a = hexAddr b ↔ a = b := by
  constructor
  · intro h
    simp only [hexAddr, DisasmOperand.addr.injEq] at h
    have split (w : Addr12) : w = w.extractLsb' 8 4 ++ w.extractLsb' 4 4 ++ w.extractLsb' 0 4 :=
      ((congrArg (· ++ w.extractLsb' 0 4) (append_extract (m := 4) (n := 4) w 4)).trans
        ((append_extract (m := 8) (n := 4) w 0).trans (extract_all w))).symm
    rw [split a, split b, h.1, h.2.1, h.2.2]
  · rintro rfl; rfl

/-- All that the classification of a word can be (60_exceptions R303). -/
theorem disasmWord_cases (w : Word) :
    (unrecognized w = true ∧ disasmWord w = .unknown w) ∨
    (unrecognized w = false ∧ ∃ i, decodeWord w = .ok i ∧ disasmWord w = .known i) := by
  unfold unrecognized disasmWord
  cases decodeWord w with
  | error e => exact .inl ⟨rfl, rfl⟩
  | ok i => cases i <;> simp

end Sys2Proof.Machine
end

