-- ==== Sys2Proof/Laws/Display.lean ====
section
/-! SUPPORT. Cells after a toggle and a clear, and what drawing a sprite does to every cell in closed form. -/

namespace Sys2Proof.Machine

@[simp] theorem Display.cell_clear (p : Nat) : Display.clear.cell p = false := by
  unfold Display.cell Display.clear
  by_cases h : p / 64 < 32
  · simp [h]
  · simp [Vector.getElem?_eq_none (not_lt.mp h)]

/-- A cell after a toggle: the toggled one is inverted, every other one is as before. -/
theorem Display.cell_toggle (d : Display) (p q : Nat) (hp : p < 2048) :
    (d.toggle p).cell q = if q = p then !d.cell q else d.cell q := by
  have hp2 : p / 64 < 32 := by omega
  have hm : p % 64 < 64 := Nat.mod_lt _ (by decide)
  simp only [Display.toggle, hp2, dif_pos, Display.cell]
  by_cases hrow : q / 64 = p / 64
  · have hbit : (1#64 <<< (p % 64)).getLsbD (q % 64) = decide (q % 64 = p % 64) := by
      rw [show 1#64 <<< (p % 64) = BitVec.twoPow 64 (p % 64) from rfl, BitVec.getLsbD_twoPow]
      simp [hm, eq_comm]
    have h1 : (d.set (p / 64) (d[p / 64] ^^^ 1#64 <<< (p % 64)))[q / 64]? = some (d[p / 64] ^^^ 1#64 <<< (p % 64)) := by
      rw [hrow]; simp
    have h2 : d[q / 64]? = some d[p / 64] := by rw [hrow]; simp [hp2]
    rw [h1, h2]
    simp only [Option.getD_some, BitVec.getLsbD_xor]
    rw [hbit]
    by_cases hqp : q = p
    · subst hqp; simp
    · have : q % 64 ≠ p % 64 := by omega
      simp [hqp, this]
  · have hqp : q ≠ p := by rintro rfl; exact hrow rfl
    have : (d.set (p / 64) (d[p / 64] ^^^ 1#64 <<< (p % 64)))[q / 64]? = d[q / 64]? := by
      rw [Vector.getElem?_set]
      simp [Ne.symm hrow]
    rw [this]; simp [hqp]

/-- Every cell of a sprite is a cell of the display. -/
theorem spriteCell_lt (vx vy : Byte) (row col : Nat) : spriteCell vx vy row col < 2048 := by
  unfold spriteCell; omega

/-- Columns 0 to 7 and rows 0 to 31 of a sprite touch different cells: the display is wider and higher. -/
theorem spriteCell_inj {vx vy : Byte} {r c r' c' : Nat} (hr : r < 32) (hr' : r' < 32) (hc : c < 8) (hc' : c' < 8) :
    spriteCell vx vy r c = spriteCell vx vy r' c' ↔ r = r' ∧ c = c' := by
  unfold spriteCell
  constructor
  · intro h; omega
  · rintro ⟨rfl, rfl⟩; rfl

/-- Whether the first `k` columns of a row hit cell `p` with a set bit. -/
def colsHit (vx vy : Byte) (row : Nat) (b : Byte) (k p : Nat) : Prop :=
  ∃ c < k, spriteBit b c = true ∧ spriteCell vx vy row c = p

/-- Whether the first `k` rows of a sprite hit cell `p` with a set bit. -/
def rowsHit (vx vy : Byte) (rows : Nat → Byte) (k p : Nat) : Prop :=
  ∃ r < k, colsHit vx vy r (rows r) 8 p

theorem Canvas.drawBit_cell (c : Canvas) (bit : Bool) (p q : Nat) (hp : p < 2048) :
    (c.drawBit bit p).display.cell q = (c.display.cell q ^^ (bit && decide (q = p))) := by
  cases bit
  · simp [Canvas.drawBit]
  · simp only [Canvas.drawBit, if_true, Display.cell_toggle _ _ _ hp]
    by_cases h : q = p <;> simp [h]

theorem Canvas.drawBit_collided (c : Canvas) (bit : Bool) (p : Nat) :
    (c.drawBit bit p).collided = (c.collided || (bit && c.display.cell p)) := by
  cases bit <;> simp [Canvas.drawBit]

theorem colsHit_succ (vx vy : Byte) (row : Nat) (b : Byte) (k p : Nat) :
    colsHit vx vy row b (k + 1) p ↔ colsHit vx vy row b k p ∨ (spriteBit b k = true ∧ p = spriteCell vx vy row k) := by
  unfold colsHit
  constructor
  · rintro ⟨c, hc, hb, hp⟩
    rcases Nat.lt_succ_iff_lt_or_eq.mp hc with h | rfl
    · exact .inl ⟨c, h, hb, hp⟩
    · exact .inr ⟨hb, hp.symm⟩
  · rintro (⟨c, hc, hb, hp⟩ | ⟨hb, hp⟩)
    · exact ⟨c, by omega, hb, hp⟩
    · exact ⟨k, by omega, hb, hp.symm⟩

open Classical in
/-- One row drawn: a cell is toggled exactly when a set bit of the row hits it. -/
theorem Canvas.drawCols_cell (c : Canvas) (vx vy : Byte) (row : Nat) (b : Byte) (k q : Nat) (hk : k ≤ 8) (hrow : row < 32) :
    (c.drawCols vx vy row b k).display.cell q = (c.display.cell q ^^ decide (colsHit vx vy row b k q)) := by
  induction k with
  | zero => simp [Canvas.drawCols, colsHit]
  | succ k ih =>
    rw [Canvas.drawCols, Canvas.drawBit_cell _ _ _ _ (spriteCell_lt _ _ _ _), ih (by omega), Bool.xor_assoc]
    congr 1
    have hdis : ¬ (colsHit vx vy row b k q ∧ (spriteBit b k = true ∧ q = spriteCell vx vy row k)) := by
      rintro ⟨⟨c, hc, _, hp⟩, _, hq⟩
      have := (spriteCell_inj (vx := vx) (vy := vy) hrow hrow (by omega : c < 8) (by omega : k < 8)).mp (hp.trans hq)
      omega
    simp only [colsHit_succ]
    by_cases h1 : colsHit vx vy row b k q <;> by_cases h2 : spriteBit b k = true <;>
      by_cases h3 : q = spriteCell vx vy row k <;> simp_all

open Classical in
/-- One row drawn: the collision is met exactly when a set bit hits a lit cell. -/
theorem Canvas.drawCols_collided (c : Canvas) (vx vy : Byte) (row : Nat) (b : Byte) (k : Nat) (hk : k ≤ 8) (hrow : row < 32) :
    (c.drawCols vx vy row b k).collided =
      (c.collided || decide (∃ p, c.display.cell p = true ∧ colsHit vx vy row b k p)) := by
  induction k with
  | zero => simp [Canvas.drawCols, colsHit]
  | succ k ih =>
    rw [Canvas.drawCols, Canvas.drawBit_collided, ih (by omega), Canvas.drawCols_cell _ _ _ _ _ _ _ (by omega) hrow,
      Bool.or_assoc]
    congr 1
    have hfree : ¬ colsHit vx vy row b k (spriteCell vx vy row k) := by
      rintro ⟨c, hc, _, hp⟩
      have := (spriteCell_inj (vx := vx) (vy := vy) hrow hrow (by omega : c < 8) (by omega : k < 8)).mp hp
      omega
    rw [Bool.eq_iff_iff]
    simp only [hfree, decide_false, Bool.xor_false, Bool.or_eq_true, decide_eq_true_eq, Bool.and_eq_true, colsHit_succ]
    constructor
    · rintro (⟨p, hl, hh⟩ | ⟨hb, hl⟩)
      · exact ⟨p, hl, .inl hh⟩
      · exact ⟨_, hl, .inr ⟨hb, rfl⟩⟩
    · rintro ⟨p, hl, hh | ⟨hb, rfl⟩⟩
      · exact .inl ⟨p, hl, hh⟩
      · exact .inr ⟨hb, hl⟩

theorem rowsHit_succ (vx vy : Byte) (rows : Nat → Byte) (k p : Nat) :
    rowsHit vx vy rows (k + 1) p ↔ rowsHit vx vy rows k p ∨ colsHit vx vy k (rows k) 8 p := by
  unfold rowsHit
  constructor
  · rintro ⟨r, hr, h⟩
    rcases Nat.lt_succ_iff_lt_or_eq.mp hr with h' | rfl
    · exact .inl ⟨r, h', h⟩
    · exact .inr h
  · rintro (⟨r, hr, h⟩ | h)
    · exact ⟨r, by omega, h⟩
    · exact ⟨k, by omega, h⟩

theorem rowsHit_colsHit_disjoint {vx vy : Byte} {rows : Nat → Byte} {k p : Nat} (hk : k < 32) (b : Byte) :
    ¬ (rowsHit vx vy rows k p ∧ colsHit vx vy k b 8 p) := by
  rintro ⟨⟨r, hr, c, hc, _, h1⟩, c', hc', _, h2⟩
  have := (spriteCell_inj (vx := vx) (vy := vy) (by omega : r < 32) hk hc hc').mp (h1.trans h2.symm)
  omega

open Classical in
/-- A sprite drawn: a cell is toggled exactly when a set bit of the sprite hits it (45_display R222). -/
theorem Canvas.drawRows_cell (c : Canvas) (vx vy : Byte) (rows : Nat → Byte) (k q : Nat) (hk : k ≤ 32) :
    (c.drawRows vx vy rows k).display.cell q = (c.display.cell q ^^ decide (rowsHit vx vy rows k q)) := by
  induction k with
  | zero => simp [Canvas.drawRows, rowsHit]
  | succ k ih =>
    rw [Canvas.drawRows, Canvas.drawCols_cell _ _ _ _ _ _ _ le_rfl (by omega), ih (by omega), Bool.xor_assoc]
    congr 1
    have hdis := rowsHit_colsHit_disjoint (vx := vx) (vy := vy) (rows := rows) (p := q) (by omega : k < 32) (rows k)
    simp only [rowsHit_succ]
    by_cases h1 : rowsHit vx vy rows k q <;> by_cases h2 : colsHit vx vy k (rows k) 8 q <;> simp_all

open Classical in
/-- A sprite drawn: the collision is met exactly when a set bit hits a lit cell (45_display R222). -/
theorem Canvas.drawRows_collided (c : Canvas) (vx vy : Byte) (rows : Nat → Byte) (k : Nat) (hk : k ≤ 32) :
    (c.drawRows vx vy rows k).collided =
      (c.collided || decide (∃ p, c.display.cell p = true ∧ rowsHit vx vy rows k p)) := by
  induction k with
  | zero => simp [Canvas.drawRows, rowsHit]
  | succ k ih =>
    rw [Canvas.drawRows, Canvas.drawCols_collided _ _ _ _ _ _ le_rfl (by omega), ih (by omega), Bool.or_assoc]
    congr 1
    rw [Bool.eq_iff_iff]
    simp only [Bool.or_eq_true, decide_eq_true_eq, Canvas.drawRows_cell _ _ _ _ _ _ (by omega : k ≤ 32), rowsHit_succ]
    constructor
    · rintro (⟨p, hl, hh⟩ | ⟨p, hl, hh⟩)
      · exact ⟨p, hl, .inl hh⟩
      · have hno : ¬ rowsHit vx vy rows k p := fun h => rowsHit_colsHit_disjoint (by omega : k < 32) (rows k) ⟨h, hh⟩
        exact ⟨p, by simpa [hno] using hl, .inr hh⟩
    · rintro ⟨p, hl, hh | hh⟩
      · exact .inl ⟨p, hl, hh⟩
      · have hno : ¬ rowsHit vx vy rows k p := fun h => rowsHit_colsHit_disjoint (by omega : k < 32) (rows k) ⟨h, hh⟩
        exact .inr ⟨p, by simpa [hno] using hl, hh⟩

end Sys2Proof.Machine
end

