-- ==== Sys2Proof/Laws/Exec.lean ====
section
/-! SUPPORT. All that an instruction rule can answer, as to faults, the counter and the form of memory; the same of a word's
rule and of a step; and the word a placed word is fetched as. Proofs about every instruction cite these, and unfold no
meaning. -/

namespace Sys2Proof.Machine

/-! ## Instruction rules -/

/-- Every rule answers a next state. -/
theorem exec_answers (i : Instr) (s : State) : ∃ t, exec i s = .next t := by
  cases i
  case ret =>
    rcases s.pop_cases with ⟨_, e⟩ | ⟨_, e⟩ <;> simp [exec, execRet, e]
  case call nnn =>
    rcases s.push_cases (s.pc + 2) with ⟨_, e⟩ | ⟨_, e⟩ <;> simp only [exec, execCall, e] <;> exact ⟨_, rfl⟩
  case ldVxK x =>
    simp only [exec, execLdVxK]; split <;> simp
  all_goals exact ⟨_, rfl⟩

/-- A rule either leaves the control flags and the fault record, or is one of the three faults, with its own word (60_exceptions
R261, R263). -/
theorem exec_fault_cases {i : Instr} {s t : State} (h : exec i s = .next t) :
    (t.halted = s.halted ∧ t.running = s.running ∧ t.fault = s.fault ∧
      ¬ ((∃ nnn, i = .sys nnn) ∨ ((∃ nnn, i = .call nnn) ∧ s.sp.val = 16) ∨ (i = .ret ∧ s.sp.val = 0))) ∨
    (∃ nnn, i = .sys nnn ∧ t = s.enterFault .unknownInstruction (encode i)) ∨
    (∃ nnn, i = .call nnn ∧ s.sp.val = 16 ∧ t = s.enterFault .stackOverflow (encode i)) ∨
    (i = .ret ∧ s.sp.val = 0 ∧ t = s.enterFault .stackUnderflow (encode i)) := by
  cases i
  case ret =>
    rcases s.pop_cases with ⟨h', e⟩ | ⟨h', e⟩ <;> simp [exec, execRet, e] at h <;> subst h
    · left; simp; omega
    · exact .inr (.inr (.inr ⟨rfl, h', rfl⟩))
  case call nnn =>
    rcases s.push_cases (s.pc + 2) with ⟨h', e⟩ | ⟨h', e⟩ <;>
      simp only [exec, execCall, e, Host.Outcome.next.injEq] at h <;> subst h
    · left; simp; omega
    · exact .inr (.inr (.inl ⟨nnn, rfl, h', rfl⟩))
  case sys nnn =>
    simp [exec, execSys] at h; subst h; exact .inr (.inl ⟨nnn, rfl, rfl⟩)
  case ldVxK x =>
    simp only [exec, execLdVxK] at h
    split at h <;> simp at h <;> subst h <;> left <;> simp
  case stRegs x =>
    simp only [exec, execStRegs] at h
    rw [State.storeBlock_eq] at h; simp at h; subst h; left; simp
  case ldRegs x =>
    simp only [exec, execLdRegs] at h
    rw [State.loadBlock_eq] at h; simp at h; subst h; left; simp
  all_goals
    (simp only [exec, execCls, execJp, execSeImm, execSneImm, execSeReg, execLdImm, execAddImm, execLdReg, execOr, execAnd,
      execXor, execAddReg, execSub, execShr, execSubn, execShl, execSneReg, execLdI, execJpV0, execRnd, execDrw, execSkp,
      execSknp, execLdVxDt, execLdDtVx, execLdStVx, execAddI, execLdF, execLdB, Host.Outcome.next.injEq] at h
     subst h; left; simp [State.storeDigits])

/-- No rule writes the counter (10_state R39). -/
theorem exec_cycleCount {i : Instr} {s t : State} (h : exec i s = .next t) : t.cycleCount = s.cycleCount := by
  cases i
  case ret =>
    rcases s.pop_cases with ⟨_, e⟩ | ⟨_, e⟩ <;> simp [exec, execRet, e] at h <;> subst h <;> rfl
  case call nnn =>
    rcases s.push_cases (s.pc + 2) with ⟨_, e⟩ | ⟨_, e⟩ <;>
      simp only [exec, execCall, e, Host.Outcome.next.injEq] at h <;> subst h <;> rfl
  case ldVxK x =>
    simp only [exec, execLdVxK] at h
    split at h <;> simp at h <;> subst h <;> rfl
  case stRegs x =>
    simp only [exec, execStRegs] at h
    rw [State.storeBlock_eq] at h; simp at h; subst h; rfl
  case ldRegs x =>
    simp only [exec, execLdRegs] at h
    rw [State.loadBlock_eq] at h; simp at h; subst h; rfl
  all_goals first
    | (cases h; rfl)
    | (simp only [exec, execSeImm, execSneImm, execSeReg, execSneReg, execSkp, execSknp, Host.Outcome.next.injEq] at h
       subst h; simp)

/-- Every rule keeps the canonical form of memory. -/
theorem exec_wf {i : Instr} {s t : State} (h : exec i s = .next t) (hw : Memory.wf s.params.font s.memory) :
    Memory.wf t.params.font t.memory := by
  cases i
  case ret =>
    rcases s.pop_cases with ⟨_, e⟩ | ⟨_, e⟩ <;> simp [exec, execRet, e] at h <;> subst h <;> exact hw
  case call nnn =>
    rcases s.push_cases (s.pc + 2) with ⟨_, e⟩ | ⟨_, e⟩ <;>
      simp only [exec, execCall, e, Host.Outcome.next.injEq] at h <;> subst h <;> exact hw
  case ldVxK x =>
    simp only [exec, execLdVxK] at h
    split at h <;> simp at h <;> subst h <;> exact hw
  case stRegs x =>
    simp only [exec, execStRegs] at h; cases h
    simpa using State.storeBlock_wf _ _ _ hw
  case ldRegs x =>
    simp only [exec, execLdRegs] at h; cases h
    rw [State.loadBlock_eq]; exact hw
  case ldB x => cases h; exact State.storeDigits_wf _ _ _ hw
  all_goals first
    | (cases h; exact hw)
    | (simp only [exec, execSeImm, execSneImm, execSeReg, execSneReg, execSkp, execSknp, State.skipIf] at h
       cases h; split <;> exact hw)

/-! ## A word's rule and a step -/

/-- The rule of every word answers a next state. -/
theorem execWord_answers (w : Word) (s : State) : ∃ t, execWord w s = .next t := by
  unfold execWord
  split
  · exact exec_answers _ _
  · exact ⟨_, rfl⟩

theorem execWord_cycleCount {w : Word} {s t : State} (h : execWord w s = .next t) : t.cycleCount = s.cycleCount := by
  unfold execWord at h
  split at h
  · exact exec_cycleCount h
  · cases h; rfl

theorem execWord_wf {w : Word} {s t : State} (h : execWord w s = .next t) (hw : Memory.wf s.params.font s.memory) :
    Memory.wf t.params.font t.memory := by
  unfold execWord at h
  split at h
  · exact exec_wf h hw
  · cases h; exact hw

/-- All that a step of a machine that is not halted can answer (40_execution_cycle R111 to R119). -/
theorem step_cases {s t : State} (hh : s.halted = false) (h : step s = .next t) :
    ∃ u, execWord s.fetchWord s = .next u ∧ t = u.complete := by
  obtain ⟨u, hu⟩ := execWord_answers s.fetchWord s
  simp only [step, cycle, hh, hu] at h
  exact ⟨u, hu, by simpa using h.symm⟩

/-- The step of a machine that is not halted, from its word's rule. -/
theorem step_of_execWord {s t : State} (hh : s.halted = false) (h : execWord s.fetchWord s = .next t) :
    step s = .next t.complete := by
  simp [step, cycle, hh, h]

/-! ## The fetched word -/

/-- The high byte of the fetched word is the byte at PC (20_memory R64). -/
theorem State.fetchWord_high (s : State) : s.fetchWord.extractLsb' 8 8 = s.memRead s.pc.toNat :=
  (extract_high _ _ 8 8 (by decide)).trans (extract_all _)

/-- The low byte of the fetched word is the byte at PC + 1 (20_memory R64). -/
theorem State.fetchWord_low (s : State) : s.fetchWord.extractLsb' 0 8 = s.memRead (s.pc.toNat + 1) :=
  (extract_low _ _ 0 8 (by decide)).trans (extract_all _)

/-- A placed word is the word fetched, at every PC. -/
theorem State.fetchWord_placeWord (s : State) (w : Word) : (s.placeWord w).fetchWord = w := by
  have h1 : ∀ a, (s.placeWord w).memRead a =
      ((s.memWrite s.pc.toNat (w.extractLsb' 8 8)).memWrite (s.pc.toNat + 1) (w.extractLsb' 0 8)).memRead a := fun _ => rfl
  have h0 : (s.placeWord w).pc = s.pc := rfl
  have h2 : ¬ eff s.pc.toNat = eff (s.pc.toNat + 1) := by
    have := @eff_add_inj s.pc.toNat 0 1 (by omega) (by omega)
    simpa using this
  unfold State.fetchWord
  simp only [h0, h1, State.memRead_memWrite, h2, if_false, if_true]
  exact wordOfBytes_of_halves w

end Sys2Proof.Machine
end

