-- ==== Sys2Proof/Laws/HostOps.lean ====
section
/-! SUPPORT. What loading bytes does to each byte of memory, what a countdown does to a timer, and the core's run one step
at a time. -/

namespace Sys2Proof.Machine

/-- Loading bytes changes memory alone. -/
theorem State.loadBytes_eq (s : State) (a : Nat) (l : List Byte) :
    s.loadBytes a l = { s with memory := (s.loadBytes a l).memory } := by
  induction l generalizing s a with
  | nil => rfl
  | cons b l ih => rw [State.loadBytes, ih]; rfl

/-- The byte at an address after a load: the image's where it has one, else the old one. -/
theorem State.byteAt_loadBytes (s : State) (a : Nat) (l : List Byte) (b : Nat) :
    (s.loadBytes a l).byteAt b = if a ≤ b then l[b - a]?.getD (s.byteAt b) else s.byteAt b := by
  induction l generalizing s a with
  | nil => simp [State.loadBytes]
  | cons c l ih =>
    rw [State.loadBytes, ih, State.byteAt_setByte]
    by_cases h1 : b = a
    · subst h1; simp
    · by_cases h2 : a ≤ b
      · have : b - a = (b - (a + 1)) + 1 := by omega
        rw [this]; simp [h1, h2, show a + 1 ≤ b by omega]
      · simp [h1, h2, show ¬ a + 1 ≤ b by omega]

/-- A load inside memory keeps the canonical form. -/
theorem State.loadBytes_wf (s : State) (a : Nat) (l : List Byte) (hl : a + l.length ≤ Config.memSize)
    (h : Memory.wf s.params.font s.memory) : Memory.wf s.params.font (s.loadBytes a l).memory := by
  induction l generalizing s a with
  | nil => exact h
  | cons b l ih =>
    simp only [List.length_cons] at hl
    exact ih (s.setByte a b) (a + 1) (by omega) (State.setByte_wf _ _ _ (by omega) h)

/-- A countdown subtracts 1 and stays at zero (60_exceptions R280, R281). -/
theorem countDown_toNat (b : Byte) : (countDown b).toNat = b.toNat - 1 := by
  unfold countDown
  split
  · subst ‹b = 0›; rfl
  · have h0 : b.toNat ≠ 0 := fun h => ‹¬ b = 0› (BitVec.eq_of_toNat_eq (by simpa using h))
    have := b.isLt
    simp [BitVec.toNat_sub]; omega

/-- A step of a halted machine changes nothing, so a host step returns the failure (40_execution_cycle R110). -/
theorem State.stepOp_of_halted {s : State} (h : s.halted = true) : s.stepOp = (s, .failureHalted) := by
  simp [State.stepOp, h]

/-- A host step of a machine that is not halted, from its step. -/
theorem State.stepOp_of_step {s t : State} (hh : s.halted = false) (h : step s = .next t) :
    s.stepOp = (t, t.resultAfter) := by
  simp [State.stepOp, hh, h]

/-- One step of the host's run. -/
theorem run_succ {s t : State} (n : Nat) (h : step s = .next t) :
    Host.Core.run Sys2Proof.core (n + 1) s = Host.Core.run Sys2Proof.core n t := by
  have h' : Sys2Proof.core.step s = .next t := h
  simp only [Host.Core.run, h']

end Sys2Proof.Machine
end

