-- ==== Sys2Proof/Laws/PerInstr.lean ====
section
/-! SUPPORT. Per instruction: its encoding matches its own row of spec/opcode_table.json (mask and match). -/

/-- The word of an instruction has its row's pattern under its row's mask (30_encoding R82, R86, R87). -/
def Sys2Proof.Laws.RowMatch.Statement (i : Sys2Proof.Instr) : Prop :=
  Sys2Proof.encode i &&& i.row.mask = i.row.pattern

namespace Sys2Proof.Laws.RowMatch

theorem sys (nnn : Addr12) : Statement (.sys nnn) :=
  (mask_op_address 0x0#4 nnn).trans rfl

theorem cls : Statement .cls :=
  rfl

theorem ret : Statement .ret :=
  rfl

theorem jp (nnn : Addr12) : Statement (.jp nnn) :=
  (mask_op_address 0x1#4 nnn).trans rfl

theorem call (nnn : Addr12) : Statement (.call nnn) :=
  (mask_op_address 0x2#4 nnn).trans rfl

theorem seImm (x : Nibble) (nn : Byte) : Statement (.seImm x nn) :=
  (mask_op_byte 0x3#4 x nn).trans rfl

theorem sneImm (x : Nibble) (nn : Byte) : Statement (.sneImm x nn) :=
  (mask_op_byte 0x4#4 x nn).trans rfl

theorem seReg (x y : Nibble) : Statement (.seReg x y) :=
  (mask_selector_nibbles 0x5#4 x y 0x0#4).trans rfl

theorem ldImm (x : Nibble) (nn : Byte) : Statement (.ldImm x nn) :=
  (mask_op_byte 0x6#4 x nn).trans rfl

theorem addImm (x : Nibble) (nn : Byte) : Statement (.addImm x nn) :=
  (mask_op_byte 0x7#4 x nn).trans rfl

theorem ldReg (x y : Nibble) : Statement (.ldReg x y) :=
  (mask_selector_nibbles 0x8#4 x y 0x0#4).trans rfl

theorem orReg (x y : Nibble) : Statement (.orReg x y) :=
  (mask_selector_nibbles 0x8#4 x y 0x1#4).trans rfl

theorem andReg (x y : Nibble) : Statement (.andReg x y) :=
  (mask_selector_nibbles 0x8#4 x y 0x2#4).trans rfl

theorem xorReg (x y : Nibble) : Statement (.xorReg x y) :=
  (mask_selector_nibbles 0x8#4 x y 0x3#4).trans rfl

theorem addReg (x y : Nibble) : Statement (.addReg x y) :=
  (mask_selector_nibbles 0x8#4 x y 0x4#4).trans rfl

theorem sub (x y : Nibble) : Statement (.sub x y) :=
  (mask_selector_nibbles 0x8#4 x y 0x5#4).trans rfl

theorem shr (x y : Nibble) : Statement (.shr x y) :=
  (mask_selector_nibbles 0x8#4 x y 0x6#4).trans rfl

theorem subn (x y : Nibble) : Statement (.subn x y) :=
  (mask_selector_nibbles 0x8#4 x y 0x7#4).trans rfl

theorem shl (x y : Nibble) : Statement (.shl x y) :=
  (mask_selector_nibbles 0x8#4 x y 0xE#4).trans rfl

theorem sneReg (x y : Nibble) : Statement (.sneReg x y) :=
  (mask_selector_nibbles 0x9#4 x y 0x0#4).trans rfl

theorem ldI (nnn : Addr12) : Statement (.ldI nnn) :=
  (mask_op_address 0xA#4 nnn).trans rfl

theorem jpV0 (nnn : Addr12) : Statement (.jpV0 nnn) :=
  (mask_op_address 0xB#4 nnn).trans rfl

theorem rnd (x : Nibble) (nn : Byte) : Statement (.rnd x nn) :=
  (mask_op_byte 0xC#4 x nn).trans rfl

theorem drw (x y n : Nibble) : Statement (.drw x y n) :=
  (mask_op_nibbles 0xD#4 x y n).trans rfl

theorem skp (x : Nibble) : Statement (.skp x) :=
  (mask_selector_byte 0xE#4 x 0x9E#8).trans rfl

theorem sknp (x : Nibble) : Statement (.sknp x) :=
  (mask_selector_byte 0xE#4 x 0xA1#8).trans rfl

theorem ldVxDt (x : Nibble) : Statement (.ldVxDt x) :=
  (mask_selector_byte 0xF#4 x 0x07#8).trans rfl

theorem ldVxK (x : Nibble) : Statement (.ldVxK x) :=
  (mask_selector_byte 0xF#4 x 0x0A#8).trans rfl

theorem ldDtVx (x : Nibble) : Statement (.ldDtVx x) :=
  (mask_selector_byte 0xF#4 x 0x15#8).trans rfl

theorem ldStVx (x : Nibble) : Statement (.ldStVx x) :=
  (mask_selector_byte 0xF#4 x 0x18#8).trans rfl

theorem addI (x : Nibble) : Statement (.addI x) :=
  (mask_selector_byte 0xF#4 x 0x1E#8).trans rfl

theorem ldF (x : Nibble) : Statement (.ldF x) :=
  (mask_selector_byte 0xF#4 x 0x29#8).trans rfl

theorem ldB (x : Nibble) : Statement (.ldB x) :=
  (mask_selector_byte 0xF#4 x 0x33#8).trans rfl

theorem stRegs (x : Nibble) : Statement (.stRegs x) :=
  (mask_selector_byte 0xF#4 x 0x55#8).trans rfl

theorem ldRegs (x : Nibble) : Statement (.ldRegs x) :=
  (mask_selector_byte 0xF#4 x 0x65#8).trans rfl

end Sys2Proof.Laws.RowMatch
end

