-- ==== Sys2Proof/Tests/Slice0.lean ====
section
/-! SUPPORT. The model's own tests: ill-formed terms refused, a word of every row decoded, single steps with the results of
spec/95_test_vectors.md (named in each docstring), and for every obligation with hypotheses a state and operands that meet
them. No expected value comes from the model. -/

namespace Sys2Proof.Tests

open Sys2Proof Sys2Proof.Machine

/-! ## Helpers -/

/-- The state a result answers, if it answers one. -/
def next? : Result State → Option State
  | .next t => some t
  | .fault _ => none
  | .refused _ => none

/-- One step on a word placed at PC. -/
def run1 (w : Nat) (s : State) : Option State :=
  next? (step (s.withFetchWord 16 w))

/-- The state reset leaves, with Vx and Vy set. -/
def two (x : Nibble) (a : Byte) (y : Nibble) (b : Byte) : State :=
  (State.reset.writeV x a).writeV y b

/-- What the ALU vectors list: Vx, VF and PC. -/
def alu (x : Nibble) (t : State) : Nat × Nat × Nat :=
  ((t.readV x).toNat, (t.readV 0xF#4).toNat, t.pc.toNat)

/-- Whether a state holds this fault record, halted and not running, at this PC with the counter at 0. -/
def faulted (kind : FaultKind) (pc w : Word) (t : State) : Bool :=
  decide (t.fault = some ⟨kind, pc, w⟩) && t.halted && !t.running && decide (t.pc = pc) && decide (t.cycleCount = 0)

/-- The reset state with a number of stack entries in use. -/
def depth (sp : Fin 17) : State :=
  { State.reset with sp := sp }

/-- A halted machine: the reset state after its first step, on the word 0x0000. -/
def stopped : State :=
  { State.reset with halted := true, fault := some ⟨.unknownInstruction, 0x200#16, 0x0000#16⟩ }

/-- The reset state with one key pressed. -/
def pressing (k : Nat) (h : k < 16) : State :=
  { State.reset with key := State.reset.key.set k true h }

/-- A one-byte sprite at 0x300, drawn at (V0, V1). -/
def sprite (b : Byte) (x y : Byte) : State :=
  ((two 0x0#4 x 0x1#4 y).setByte 0x300 b).setI 0x300#16

/-! ## WellFormed: each check refuses -/

/-- 30_encoding R91: the word 00E0 is CLS, so SYS 0E0 is no instruction. -/
theorem test_wf_refuses_sys_cls_word : (Instr.sys 0x0E0#12).wf = false := by decide

/-- 30_encoding R91: the word 00EE is RET, so SYS 0EE is no instruction. -/
theorem test_wf_refuses_sys_ret_word : (Instr.sys 0x0EE#12).wf = false := by decide

theorem test_wf_accepts_neighbours :
    (Instr.sys 0x0E1#12).wf = true ∧ (Instr.sys 0x0EF#12).wf = true ∧ (Instr.sys 0xFFF#12).wf = true := by decide

/-! ## Decoding: one word of every row, from the layouts of 30_encoding R82 and the map of R86, R87 -/

theorem test_decode_zero_family :
    decodeWord 0b0000000100100011#16 = .ok (.sys 0x123#12) ∧
    decodeWord 0b0000000011100000#16 = .ok (.cls) ∧
    decodeWord 0b0000000011101110#16 = .ok (.ret) := by decide

theorem test_decode_jumps :
    decodeWord 0b0001101010111100#16 = .ok (.jp 0xABC#12) ∧
    decodeWord 0b0010001100000000#16 = .ok (.call 0x300#12) ∧
    decodeWord 0b1011001100000000#16 = .ok (.jpV0 0x300#12) := by decide

theorem test_decode_skips :
    decodeWord 0b0011001100101010#16 = .ok (.seImm 3 0x2A) ∧
    decodeWord 0b0100001100101010#16 = .ok (.sneImm 3 0x2A) ∧
    decodeWord 0b0101000100100000#16 = .ok (.seReg 1 2) ∧
    decodeWord 0b1001000100100000#16 = .ok (.sneReg 1 2) ∧
    decodeWord 0b1110010110011110#16 = .ok (.skp 5) ∧
    decodeWord 0b1110010110100001#16 = .ok (.sknp 5) := by decide

theorem test_decode_immediates :
    decodeWord 0b0110101001000010#16 = .ok (.ldImm 0xA 0x42) ∧
    decodeWord 0b0111001000000010#16 = .ok (.addImm 2 0x02) ∧
    decodeWord 0b1100001100001111#16 = .ok (.rnd 3 0x0F) := by decide

theorem test_decode_eight_family :
    decodeWord 0b1000000000010000#16 = .ok (.ldReg 0 1) ∧
    decodeWord 0b1000000000010001#16 = .ok (.orReg 0 1) ∧
    decodeWord 0b1000000000010010#16 = .ok (.andReg 0 1) ∧
    decodeWord 0b1000000000010011#16 = .ok (.xorReg 0 1) ∧
    decodeWord 0b1000000000010100#16 = .ok (.addReg 0 1) := by decide

theorem test_decode_eight_family_rest :
    decodeWord 0b1000000000010101#16 = .ok (.sub 0 1) ∧
    decodeWord 0b1000010001010110#16 = .ok (.shr 4 5) ∧
    decodeWord 0b1000000000010111#16 = .ok (.subn 0 1) ∧
    decodeWord 0b1000010001011110#16 = .ok (.shl 4 5) := by decide

theorem test_decode_index :
    decodeWord 0b1010000100100011#16 = .ok (.ldI 0x123#12) ∧
    decodeWord 0b1111001000011110#16 = .ok (.addI 2) ∧
    decodeWord 0b1111011100101001#16 = .ok (.ldF 7) ∧
    decodeWord 0b1111000000110011#16 = .ok (.ldB 0) ∧
    decodeWord 0b1111001001010101#16 = .ok (.stRegs 2) ∧
    decodeWord 0b1111001001100101#16 = .ok (.ldRegs 2) := by decide

theorem test_decode_display_timers_keys :
    decodeWord 0b1101001101000101#16 = .ok (.drw 3 4 5) ∧
    decodeWord 0b1111001100000111#16 = .ok (.ldVxDt 3) ∧
    decodeWord 0b1111010100001010#16 = .ok (.ldVxK 5) ∧
    decodeWord 0b1111000100010101#16 = .ok (.ldDtVx 1) ∧
    decodeWord 0b1111000100011000#16 = .ok (.ldStVx 1) := by decide

/-- 30_encoding R89: words of no row, by the name of their family. -/
theorem test_decode_refuses :
    decodeWord 0x5121#16 = .error .family5 ∧ decodeWord 0x8018#16 = .error .family8 ∧
    decodeWord 0x801D#16 = .error .family8 ∧ decodeWord 0x801F#16 = .error .family8 ∧
    decodeWord 0x912F#16 = .error .family9 ∧ decodeWord 0xE5FF#16 = .error .familyE ∧
    decodeWord 0xF000#16 = .error .familyF ∧ decodeWord 0xF0FF#16 = .error .familyF := by decide

/-- 30_encoding R81: a list that does not hold a whole word. -/
theorem test_decode_truncated : decode [] = .error .truncated ∧ decode [0x00#8] = .error .truncated := by decide

/-! ## Steps: control transfer -/

/-- 95_test_vectors CF2. -/
theorem test_sys_faults :
    (run1 0x0123 (State.reset)).map (faulted .unknownInstruction 0x200 0x0123) = some true := by decide

/-- 95_test_vectors CF1: nothing is placed. -/
theorem test_first_step_faults :
    (next? (step State.reset)).map (faulted .unknownInstruction 0x200 0x0000) = some true := by decide

/-- 95_test_vectors S5, CF3. -/
theorem test_ret_underflow :
    (run1 0x00EE (State.reset)).map (faulted .stackUnderflow 0x200 0x00EE) = some true := by decide

/-- 95_test_vectors CF4: the popped entry keeps its value. -/
theorem test_ret_pops :
    (run1 0x00EE ({ depth 2 with stack := (State.reset.stack.set 0 0x0250).set 1 0x0304 })).map (fun t => (t.pc, t.sp, t.stack[1])) = some (0x0304, 1, 0x0304) := by decide

/-- 95_test_vectors CF5. -/
theorem test_jp :
    (run1 0x1ABC (State.reset)).map (fun t => t.pc) = some 0x0ABC := by decide

/-- 95_test_vectors CF6: an odd target. -/
theorem test_jp_odd :
    (run1 0x1203 (State.reset)).map (fun t => (t.pc, t.halted)) = some (0x0203, false) := by decide

/-- 95_test_vectors CF10: the last entry. -/
theorem test_call_top :
    (run1 0x2300 (depth 15)).map (fun t => (t.stack[15], t.sp, t.pc)) = some (0x0202, 16, 0x0300) := by decide

/-- 95_test_vectors CF9. -/
theorem test_call_overflow :
    (run1 0x2300 (depth 16)).map (fun t => (faulted .stackOverflow 0x200 0x2300 t, t.sp)) = some (true, 16) := by decide

/-- 95_test_vectors CF11: PC is not reduced. -/
theorem test_call_past_memory :
    (run1 0x2300 (State.reset.setPc 0x0FFE)).map (fun t => (t.stack[0], t.sp, t.pc)) = some (0x1000, 1, 0x0300) := by decide

/-- 95_test_vectors CF13: not masked to 12 bits. -/
theorem test_jpV0 :
    (run1 0xBFFF (State.reset.writeV 0 0xFF)).map (fun t => t.pc) = some 0x10FE := by decide

/-- 95_test_vectors CF14. -/
theorem test_jpV0_uses_v0 :
    (run1 0xB300 (State.reset.writeV 0xF 0x22)).map (fun t => t.pc) = some 0x0300 := by decide

/-! ## Steps: skips -/

/-- 95_test_vectors SK1. -/
theorem test_seImm :
    (run1 0x332A (State.reset.writeV 3 0x2A)).map (fun t => t.pc) = some 0x204 := by decide

/-- 95_test_vectors SK2. -/
theorem test_seImm_not :
    (run1 0x332A (State.reset.writeV 3 0x2B)).map (fun t => t.pc) = some 0x202 := by decide

/-- 95_test_vectors SK3. -/
theorem test_sneImm_not :
    (run1 0x432A (State.reset.writeV 3 0x2A)).map (fun t => t.pc) = some 0x202 := by decide

/-- 95_test_vectors SK4. -/
theorem test_sneImm :
    (run1 0x432A (State.reset)).map (fun t => t.pc) = some 0x204 := by decide

/-- 95_test_vectors SK5. -/
theorem test_seReg :
    (run1 0x5120 (two 1 0x05 2 0x05)).map (fun t => t.pc) = some 0x204 := by decide

/-- 95_test_vectors SK6. -/
theorem test_seReg_not :
    (run1 0x5120 (two 1 0x05 2 0x06)).map (fun t => t.pc) = some 0x202 := by decide

/-- 95_test_vectors SK8. -/
theorem test_sneReg :
    (run1 0x9120 (two 1 0x05 2 0x06)).map (fun t => t.pc) = some 0x204 := by decide

/-- 95_test_vectors SK17: +4 mod 2^16, not mod 4096. -/
theorem test_skip_past_memory :
    (run1 0x3000 (State.reset.setPc 0x0FFE)).map (fun t => t.pc) = some 0x1002 := by decide

/-- 95_test_vectors SK11. -/
theorem test_skp :
    (run1 0xE59E ((pressing 0xA (by decide)).writeV 5 0x0A)).map (fun t => t.pc) = some 0x204 := by decide

/-- 95_test_vectors SK13: 0x1A is not pressed. -/
theorem test_skp_whole_byte :
    (run1 0xE59E ((pressing 0xA (by decide)).writeV 5 0x1A)).map (fun t => t.pc) = some 0x202 := by decide

/-- 95_test_vectors SK14. -/
theorem test_sknp_whole_byte :
    (run1 0xE5A1 ((pressing 0xA (by decide)).writeV 5 0x1A)).map (fun t => t.pc) = some 0x204 := by decide

/-- 42_skips R162, with the latch of SK11. -/
theorem test_sknp_not :
    (run1 0xE5A1 ((pressing 0xA (by decide)).writeV 5 0x0A)).map (fun t => t.pc) = some 0x202 := by decide

/-! ## Steps: loads and arithmetic -/

/-- 95_test_vectors A1. -/
theorem test_ldImm :
    (run1 0x6A42 (State.reset)).map (alu 0xA) = some (0x42, 0, 0x202) := by decide

/-- 95_test_vectors A2. -/
theorem test_ldImm_vf :
    (run1 0x6F00 (State.reset.writeV 0xF 0x01)).map (alu 0xF) = some (0, 0, 0x202) := by decide

/-- 95_test_vectors A3: no carry. -/
theorem test_addImm :
    (run1 0x7202 (two 2 0xFF 0xF 0x07)).map (alu 2) = some (0x01, 0x07, 0x202) := by decide

/-- 95_test_vectors A4: the sum, not a flag. -/
theorem test_addImm_vf :
    (run1 0x7F01 (State.reset.writeV 0xF 0xFF)).map (alu 0xF) = some (0, 0, 0x202) := by decide

/-- 95_test_vectors A5. -/
theorem test_ldReg :
    (run1 0x8010 (two 1 0x99 0xF 0x33)).map (alu 0) = some (0x99, 0x33, 0x202) := by decide

/-- 95_test_vectors A6. -/
theorem test_or :
    (run1 0x8011 ((two 0 0x0F 1 0xF0).writeV 0xF 0x01)).map (alu 0) = some (0xFF, 0, 0x202) := by decide

/-- 95_test_vectors A9: the flag replaces the result. -/
theorem test_or_vf :
    (run1 0x8F11 (two 0xF 0x0F 1 0xF0)).map (alu 0xF) = some (0, 0, 0x202) := by decide

/-- 95_test_vectors A7. -/
theorem test_and :
    (run1 0x8012 ((two 0 0x3C 1 0x0F).writeV 0xF 0x05)).map (alu 0) = some (0x0C, 0, 0x202) := by decide

/-- 95_test_vectors A8. -/
theorem test_xor :
    (run1 0x8013 ((two 0 0xFF 1 0x0F).writeV 0xF 0x01)).map (alu 0) = some (0xF0, 0, 0x202) := by decide

/-- 95_test_vectors S1. -/
theorem test_addReg :
    (run1 0x8014 (two 0 0xFF 1 0x01)).map (alu 0) = some (0, 1, 0x202) := by decide

/-- 95_test_vectors A11: the carry replaces the sum. -/
theorem test_addReg_vf :
    (run1 0x8F14 (two 0xF 0xFF 1 0x01)).map (alu 0xF) = some (1, 1, 0x202) := by decide

/-- 95_test_vectors S2: a borrow. -/
theorem test_sub :
    (run1 0x8015 (two 0 0x01 1 0x02)).map (alu 0) = some (0xFF, 0, 0x202) := by decide

/-- 95_test_vectors A14: the old VF is the minuend. -/
theorem test_sub_vf :
    (run1 0x8F05 (two 0 0x20 0xF 0x10)).map (alu 0xF) = some (0, 0, 0x202) := by decide

/-- 95_test_vectors A16: the default source is Vx. -/
theorem test_shr :
    (run1 0x8456 (two 4 0x05 5 0xFF)).map (alu 4) = some (0x02, 1, 0x202) := by decide

/-- 95_test_vectors A16, with SHIFT_SOURCE = vy. -/
theorem test_shr_vy :
    (run1 0x8456 ({ two 4 0x05 5 0xFF with params := { defaultParams with shiftSource := .vy } })).map (alu 4) = some (0x7F, 1, 0x202) := by decide

/-- 95_test_vectors A19. -/
theorem test_subn :
    (run1 0x8017 (two 0 0x02 1 0x01)).map (alu 0) = some (0xFF, 0, 0x202) := by decide

/-- 95_test_vectors A21: no borrow. -/
theorem test_subn_equal :
    (run1 0x8017 (two 0 0x44 1 0x44)).map (alu 0) = some (0, 1, 0x202) := by decide

/-- 95_test_vectors A24: the default source is Vx. -/
theorem test_shl :
    (run1 0x845E (two 4 0x01 5 0x80)).map (alu 4) = some (0x02, 0, 0x202) := by decide

/-- 95_test_vectors A24, with SHIFT_SOURCE = vy. -/
theorem test_shl_vy :
    (run1 0x845E ({ two 4 0x01 5 0x80 with params := { defaultParams with shiftSource := .vy } })).map (alu 4) = some (0, 1, 0x202) := by decide

/-- 95_test_vectors A26, for any draw: the first draw under the mask, and the next draw is another one. -/
theorem test_rnd :
    (run1 0xC30F State.reset).map (fun t => (t.readV 3, t.draws, t.pc)) = some (Config.rand 0 &&& 0x0F#8, 1, 0x202) := by rfl

/-- 95_test_vectors A27: nn = 0 gives 0 for any draw. -/
theorem test_rnd_mask_zero :
    (run1 0xC300 (State.reset.writeV 3 0x55)).map (fun t => t.readV 3) = some 0 := by 
  have h : (run1 0xC300 (State.reset.writeV 3 0x55)).map (fun t => t.readV 3) = some (Config.rand 0 &&& 0x00#8) := rfl
  rw [h]; simp

/-! ## Steps: the index register and memory -/

/-- 95_test_vectors M1. -/
theorem test_ldI :
    (run1 0xA123 (State.reset)).map (fun t => (t.i, t.pc)) = some (0x0123, 0x202) := by decide

/-- 95_test_vectors M2: past 0x0FFF, and VF stays. -/
theorem test_addI :
    (run1 0xF21E ((two 2 0x03 0xF 0x09).setI 0x0FFE)).map (fun t => (t.i, t.readV 0xF)) = some (0x1001, 0x09) := by decide

/-- 95_test_vectors M3. -/
theorem test_addI_wraps :
    (run1 0xF01E ((State.reset.writeV 0 0x01).setI 0xFFFF)).map (fun t => t.i) = some 0x0000 := by decide

/-- 95_test_vectors M4. -/
theorem test_ldF :
    (run1 0xF729 (State.reset.writeV 7 0x0F)).map (fun t => t.i) = some 0x004B := by decide

/-- 95_test_vectors M5. -/
theorem test_ldF_low_nibble :
    (run1 0xF729 (State.reset.writeV 7 0x1A)).map (fun t => t.i) = some 0x0032 := by decide

/-- 95_test_vectors M6. -/
theorem test_ldB :
    (run1 0xF033 ((State.reset.writeV 0 0xFE).setI 0x0300)).map (fun t => (t.byteAt 0x300, t.byteAt 0x301, t.byteAt 0x302, t.i)) = some (0x02, 0x05, 0x04, 0x0300) := by decide

/-- 95_test_vectors M9: over the first bytes of the font. -/
theorem test_ldB_wraps :
    (run1 0xF033 ((State.reset.writeV 0 0x7B).setI 0x0FFF)).map (fun t => (t.byteAt 0xFFF, t.byteAt 0x000, t.byteAt 0x001)) = some (0x01, 0x02, 0x03) := by decide

/-- 95_test_vectors M10. -/
theorem test_stRegs :
    (run1 0xF255 (((two 0 0x11 1 0x22).writeV 2 0x33).setI 0x0400)).map (fun t => (t.byteAt 0x400, t.byteAt 0x401, t.byteAt 0x402, t.byteAt 0x403, t.i)) = some (0x11, 0x22, 0x33, 0x00, 0x0403) := by decide

/-- 95_test_vectors M12: memory wraps at 4096 and I does not. -/
theorem test_stRegs_wraps :
    (run1 0xFF55 ({ State.reset with v := #v[1, 2, 3, 4, 5, 6, 7, 8, 9, 10, 11, 12, 13, 14, 15, 16], i := 0x0FF8 })).map (fun t => (t.byteAt 0xFF8, t.byteAt 0xFFF, t.byteAt 0x000, t.byteAt 0x007, t.i)) = some (0x01, 0x08, 0x09, 0x10, 0x1008) := by decide

/-- 95_test_vectors M15: glyph 0 of the font. -/
theorem test_ldRegs_font :
    (run1 0xF465 (State.reset)).map (fun t => (t.readV 0, t.readV 1, t.readV 4, t.readV 5, t.i)) = some (0xF0, 0x90, 0xF0, 0x00, 0x0005) := by decide

/-- 95_test_vectors M14. -/
theorem test_ldRegs_reduced :
    (run1 0xF065 ((State.reset.setByte 0x234 0x5A).setI 0x1234)).map (fun t => (t.readV 0, t.i)) = some (0x5A, 0x1235) := by decide

/-! ## Steps: the display -/

/-- 95_test_vectors S9, DR1. -/
theorem test_cls :
    (run1 0x00E0 (State.reset.setDisplay (Vector.replicate 32 0xFFFFFFFFFFFFFFFF#64))).map (fun t => (t.display.cell 0, t.display.cell 2047, t.redrawPending)) = some (false, false, true) := by decide

/-- 95_test_vectors DR4: columns wrap. -/
theorem test_drw_wraps :
    (run1 0xD011 (sprite 0xFF 0x3E 0x00)).map (fun t => (t.display[0], t.display[1], t.readV 0xF, t.redrawPending)) = some (0xC00000000000003F, 0, 0, true) := by decide

/-- 95_test_vectors DR9. -/
theorem test_drw_collides :
    (run1 0xD011 ((sprite 0xC0 0x00 0x00).setDisplay (Display.clear.toggle 1))).map (fun t => (t.display.cell 0, t.display.cell 1, t.readV 0xF, t.pc)) = some (true, false, 1, 0x202) := by decide

/-- 95_test_vectors DR8: x is read from VF before VF is written. -/
theorem test_drw_place_read_first :
    (run1 0xDF11 ((sprite 0x80 0x00 0x02).writeV 0xF 0x05)).map (fun t => (t.display.cell 133, t.readV 0xF)) = some (true, 0) := by decide

/-! ## Steps: timers and keys -/

/-- 95_test_vectors T1. -/
theorem test_ldVxDt :
    (run1 0xF307 (State.reset.setDt 0x3C)).map (fun t => (t.readV 3, t.dt, t.pc)) = some (0x3C, 0x3C, 0x202) := by decide

/-- 95_test_vectors T2. -/
theorem test_ldDtVx :
    (run1 0xF115 (State.reset.writeV 1 0x3C)).map (fun t => (t.dt, t.st)) = some (0x3C, 0x00) := by decide

/-- 95_test_vectors T3. -/
theorem test_ldStVx :
    (run1 0xF118 (State.reset.writeV 1 0x05)).map (fun t => (t.st, t.dt, t.soundOn)) = some (0x05, 0x00, true) := by decide

/-- 95_test_vectors S6: a completed step that stays. -/
theorem test_ldVxK_stays :
    (run1 0xF50A (State.reset)).map (fun t => (t.pc, t.readV 5, t.halted, t.cycleCount)) = some (0x200, 0x00, false, 1) := by decide

/-- 95_test_vectors T5: the lowest of keys 3 and 9. -/
theorem test_ldVxK_lowest :
    (run1 0xF00A ({ State.reset with key := (State.reset.key.set 3 true).set 9 true })).map (fun t => (t.readV 0, t.pc)) = some (0x03, 0x202) := by decide

/-! ## The cycle and the host -/

/-- 95_test_vectors X1. -/
theorem test_halted_step :
    next? (step stopped) = some stopped ∧ stopped.stepOp.2 = .failureHalted := by decide

/-- 95_test_vectors A25, the word 8018. -/
theorem test_unrecognized_word :
    (run1 0x8018 State.reset).map (faulted .unknownInstruction 0x200 0x8018) = some true := by decide

/-- 95_test_vectors X4: the low byte comes from the font at 0x000. -/
theorem test_fetch_wraps :
    (next? (step ((State.reset.setByte 0xFFF 0x60).setPc 0x0FFF))).map (fun t => (t.readV 0, t.pc)) = some (0xF0, 0x1001) := by decide

/-- 95_test_vectors S7, T10. -/
theorem test_tick_clamps :
    (State.reset.setDt 0x01).tick.dt = 0x00 ∧ (State.reset.setDt 0x00).tick.dt = 0x00 ∧ (State.reset.setSt 0x01).tick.soundOn = false := by decide

/-- 95_test_vectors T9. -/
theorem test_tick_halted :
    (stopped.setDt 0x05).tick.dt = 0x04 := by decide

/-- 95_test_vectors H1. -/
theorem test_reset_of_halted :
    (transact .reset ((stopped.writeV 0 0x12).setDt 0x05)).1 = State.reset := by decide

/-- 95_test_vectors H2, H3. -/
theorem test_start_refused :
    transact .start stopped = (stopped, .refused) ∧ (transact .start State.reset).1.running = true := by decide

/-- 95_test_vectors H4, H5. -/
theorem test_keys :
    transact (.keyDown 16) State.reset = (State.reset, .refused) ∧
      (transact (.keyDown 5) State.reset).1.key[5] = true ∧ (transact (.keyUp 5) (pressing 5 (by decide))).1.key[5] = false := by decide

/-- 95_test_vectors H6, H7. -/
theorem test_write_memory :
    transact (.writeMemory 0x1000 0x12) State.reset = (State.reset, .refused) ∧
      (transact (.writeMemory 0x0FFF 0x12) State.reset).1.byteAt 0xFFF = 0x12 := by decide

/-- 95_test_vectors H8, H9. -/
theorem test_poke_register :
    transact (.pokeRegister 16 0x01) State.reset = (State.reset, .refused) ∧
      (transact (.pokeRegister 15 0x01) State.reset).1.readV 0xF = 0x01 := by decide

/-- 95_test_vectors S9. -/
theorem test_poll_twice :
    (transact .pollRedraw State.reset.markRedraw).2 = .flag true ∧
      (transact .pollRedraw (transact .pollRedraw State.reset.markRedraw).1).2 = .flag false := by decide

/-- 95_test_vectors H11. -/
theorem test_load :
    (transact (.load [0x12#8, 0x34#8]) (State.reset.setPc 0x204)).1.byteAt 0x201 = 0x34 ∧
      (transact (.load [0x12#8, 0x34#8]) (State.reset.setPc 0x204)).1.pc = 0x204 := by decide

/-- 95_test_vectors S8. -/
theorem test_load_too_long :
    State.reset.load (List.replicate 3585 0x00#8) = none := by 
  unfold State.load; rw [if_neg]; rw [List.length_replicate]; decide

/-- 95_test_vectors H14, H15. -/
theorem test_disassemble :
    State.reset.disasmToken 0x0FFF = .outOfBounds ∧ (State.reset.placeWord 0x8008).disasmToken 0x200 = .unknown 0x8008 := by decide

/-- 30_encoding R93, on a word of each kind of operand: digits in hex, and the Vy of SHR apart (log entry 17). -/
theorem test_disassemble_form :
    (State.reset.placeWord 0x6A42).disassembly 0x200 = .instruction "LD" [.reg 0xA, .byte 0x4 0x2] ∧
      (State.reset.placeWord 0x1ABC).disassembly 0x200 = .instruction "JP" [.addr 0xA 0xB 0xC] ∧
      (State.reset.placeWord 0xD345).disassembly 0x200 = .instruction "DRW" [.reg 3, .reg 4, .height 5] ∧
      (State.reset.placeWord 0x8456).disassembly 0x200 = .instruction "SHR" [.reg 4, .optionalReg 5] ∧
      (State.reset.placeWord 0xF255).disassembly 0x200 = .instruction "LD" [.named "[I]", .reg 2] := by decide

/-- 60_exceptions R303: an unrecognized sub-case of the 0 family is unknown, with its raw word. -/
theorem test_disassemble_sys :
    (State.reset.placeWord 0x0123).disassembly 0x200 = .unknown 0x0123 := by decide

/-- 60_exceptions R301: an entry past the depth is empty. -/
theorem test_views :
    (depth 1).view (.stackEntry 0) = .entry (some 0x0000) ∧ (depth 1).view (.stackEntry 1) = .entry none := by decide

/-- Log entry 7: with the cell on before (DR9), the two draws of 45_display R224 give VF = 1 and then VF = 0, so the last
clause of R224 needs its cells off before. -/
theorem test_second_draw_of_a_lit_cell :
    ((run1 0xD011 ((sprite 0x80 0x00 0x00).setDisplay (Display.clear.toggle 0))).bind fun t =>
      (run1 0xD011 t).map fun u => (t.readV 0xF, u.readV 0xF, u.display.cell 0)) = some (1, 0, true) := by decide

/-! ## Hypotheses are met: one witness for every obligation that has any -/

theorem witness_DecodeInvertsEncode :
    (Instr.drw 3 4 5).wf = true ∧ (Instr.sys 0x0E1).wf = true ∧ (Instr.sys 0xFFF).wf = true := by decide

theorem witness_EncodeInvertsDecode :
    decodeWord 0xD345#16 = .ok (.drw 3 4 5) ∧ decodeWord 0x00E1#16 = .ok (.sys 0x0E1) := by decide

theorem witness_OpcodeRowsMatchDecoder :
    Instr.cls.row ∈ opcodeRows ∧ Instr.cls.row ≠ ⟨0xF000, 0x0000⟩ ∧ (0x00E0#16 &&& Instr.cls.row.mask) = Instr.cls.row.pattern ∧
    (Instr.ldRegs 0).row ∈ opcodeRows ∧ (Instr.ldRegs 0).row ≠ ⟨0xF000, 0x0000⟩ ∧
    (0xFF65#16 &&& (Instr.ldRegs 0).row.mask) = (Instr.ldRegs 0).row.pattern := by decide

theorem witness_FetchIsBigEndian :
    (State.reset.setPc 0x1FFF).pc.toNat % 4096 = 0xFFF := by decide

theorem witness_PlacedWordIsFetched :
    65535 < 65536 ∧ decodeTableWord 16 0x00E0 = some .cls ∧ decodeTableWord 16 0xF265 = some (.ldRegs 2) := by decide

theorem witness_StepRunsDecodedInstruction :
    (State.reset.placeWord 0x6A42).halted = false ∧
    decode [(State.reset.placeWord 0x6A42).memRead 0x200, (State.reset.placeWord 0x6A42).memRead 0x201, 0x12#8] =
      .ok (.ldImm 0xA 0x42, [0x12#8]) := by decide

theorem witness_UnrecognizedWordFaults :
    State.reset.halted = false ∧ unrecognized State.reset.fetchWord = true ∧
    unrecognized (State.reset.placeWord 0x801F).fetchWord = true := by decide

theorem witness_HaltedStepChangesNothing :
    stopped.halted = true := by decide

theorem witness_CompletedStepsAreCounted :
    (State.reset.placeWord 0x00E0).halted = false ∧ (run1 0x00E0 State.reset).map (fun t => t.halted) = some false ∧
    (run1 0x00EE State.reset).map (fun t => t.halted) = some true := by decide

theorem witness_FaultsArePrecise :
    (run1 0x00E0 State.reset).map (fun t => t.halted) = some false ∧ (run1 0x0000 State.reset).map (fun t => t.halted) = some true ∧
    (run1 0x00EE State.reset).map (fun t => t.halted) = some true ∧ (run1 0x2300 (depth 16)).map (fun t => t.halted) = some true := by decide

theorem witness_RetPopsOrUnderflows :
    0 < (depth 1).sp.val ∧ 0 < (depth 16).sp.val ∧ (depth 0).sp.val = 0 := by decide

theorem witness_CallPushesOrOverflows :
    (depth 0).sp.val < 16 ∧ (depth 15).sp.val < 16 ∧ (depth 16).sp.val = 16 := by decide

theorem witness_MatchingRetResumesAfterCall :
    ∃ t, exec (.call 0x300) (depth 15) = .next t ∧ (depth 15).sp.val < 16 ∧
    t.sp = t.sp ∧ t.stack[(depth 15).sp.val]? = t.stack[(depth 15).sp.val]? := by exact ⟨_, rfl, by decide, rfl, rfl⟩

theorem witness_SixteenNestedCalls :
    (depth 0).sp.val = 0 ∧ (List.replicate 16 0x200#12).length = 16 := by decide

theorem witness_KeySkips :
    ((State.reset.writeV 5 15).readV 5).toNat < 16 ∧ 16 ≤ ((State.reset.writeV 5 16).readV 5).toNat := by decide

/-- The destination of the clause on Vx: any register but VF. -/
theorem witness_BitwiseOpsResetVF :
    (0x0#4 : Nibble) ≠ 0xF#4 ∧ (0xE#4 : Nibble) ≠ 0xF#4 := by decide

theorem witness_AddSetsCarry :
    (0x0#4 : Nibble) ≠ 0xF#4 ∧ (0xE#4 : Nibble) ≠ 0xF#4 := by decide

theorem witness_SubtractionsSetNotBorrow :
    (0x0#4 : Nibble) ≠ 0xF#4 ∧ (0xE#4 : Nibble) ≠ 0xF#4 := by decide

theorem witness_RegisterCopy :
    (0xF#4 : Nibble) = 0xF#4 := by decide

theorem witness_RandomByteUnderMask :
    (0x00#8 : Byte) = 0 := by decide

theorem witness_RegisterBlockStored :
    (0x0#4).toNat ≤ (0x0#4).toNat ∧ (0xF#4).toNat ≤ (0xF#4).toNat := by decide

theorem witness_RegisterBlockLoaded :
    (0xF#4).toNat ≤ (0xF#4).toNat ∧ (0x0#4).toNat < (0x1#4).toNat := by decide

theorem witness_ShiftsSetShiftedOutBit :
    0x05 = (if (two 4 0x05 5 0xFF).params.shiftSource = .vx then (two 4 0x05 5 0xFF).readV 4 else (two 4 0x05 5 0xFF).readV 5).toNat := by decide

theorem witness_BlockStoreThenLoad :
    ∃ t, exec (.stRegs 2) State.reset = .next t ∧ SameBytes t (t.setI State.reset.i) ∧ (t.setI State.reset.i).i = State.reset.i := by exact ⟨_, rfl, fun _ => rfl, rfl⟩

theorem witness_StoredBytesAreFetched :
    ∃ t, exec (.stRegs 1) (State.reset.setI 0x202) = .next t ∧ eff (indexAddr (State.reset.setI 0x202).i 0) = eff t.pc.toNat ∧
    eff (indexAddr (State.reset.setI 0x202).i 1) = eff (t.pc.toNat + 1) := by exact ⟨_, rfl, by decide, by decide⟩

theorem witness_StoredBytesAreFetched_digits :
    ∃ t, exec (.ldB 0) (State.reset.setI 0x201) = .next t ∧
    (1, 0) ∈ [(0, ((State.reset.setI 0x201).readV 0).toNat / 100), (1, ((State.reset.setI 0x201).readV 0).toNat / 10 % 10),
      (2, ((State.reset.setI 0x201).readV 0).toNat % 10)] ∧
    eff (indexAddr (State.reset.setI 0x201).i 1) = eff t.pc.toNat ∧
    eff (indexAddr (State.reset.setI 0x201).i 2) = eff (t.pc.toNat + 1) := by exact ⟨_, rfl, by decide, by decide, by decide⟩

theorem witness_StoredBytesAreFetched_write_memory :
    (transact (.writeMemory 0x200 0x12) State.reset).2 = .accepted ∧
    0x200 = eff (transact (.writeMemory 0x200 0x12) State.reset).1.pc.toNat ∧
    (transact (.writeMemory 0xFFF 0xFF) (State.reset.setPc 0x0FFE)).2 = .accepted ∧
    0xFFF = eff ((transact (.writeMemory 0xFFF 0xFF) (State.reset.setPc 0x0FFE)).1.pc.toNat + 1) := by decide

theorem witness_StoredBytesAreFetched_load :
    (transact (.load [0x12#8, 0x34#8]) State.reset).2 = .accepted ∧ [0x12#8, 0x34#8][0]? = some 0x12#8 ∧
    [0x12#8, 0x34#8][1]? = some 0x34#8 ∧ 0x200 + 0 = eff (transact (.load [0x12#8, 0x34#8]) State.reset).1.pc.toNat ∧
    0x200 + 1 = eff ((transact (.load [0x12#8, 0x34#8]) State.reset).1.pc.toNat + 1) := by decide

/-- The cells of the sprite 80 at (0, 0) are cell 0 alone; the first state has it off and the second has it on. -/
theorem witness_DrawXorsSprite :
    (∀ p, p = 0 ↔ ∃ row < (1#4).toNat, ∃ col < 8,
      ((sprite 0x80 0 0).memRead (indexAddr (sprite 0x80 0 0).i row)).getLsbD (7 - col) = true ∧
      (((sprite 0x80 0 0).readV 1).toNat + row) % 32 * 64 + (((sprite 0x80 0 0).readV 0).toNat + col) % 64 = p) ∧
    (sprite 0x80 0 0).display.cell 0 = false ∧
    ((sprite 0x80 0 0).setDisplay (Display.clear.toggle 0)).display.cell 0 = true := by
  refine ⟨fun p => ⟨?_, ?_⟩, by decide, by decide⟩
  · rintro rfl; exact ⟨0, by decide, 0, by decide, by decide, by decide⟩
  · rintro ⟨row, hr, col, hc, hb, hp⟩
    have h0 : row = 0 := by simpa using hr
    subst h0
    have key : ∀ c < 8, ((sprite 0x80 0 0).memRead (indexAddr (sprite 0x80 0 0).i 0)).getLsbD (7 - c) = true → c = 0 := by
      decide
    have hc0 : col = 0 := key col hc hb
    subst hc0; exact hp.symm

theorem witness_DrawingTwiceRestores :
    (0x0#4 : Nibble) ≠ 0xF#4 ∧ (0x1#4 : Nibble) ≠ 0xF#4 ∧ ∀ row < (1#4).toNat, ∀ col < 8,
      ((sprite 0x80 0 0).memRead (indexAddr (sprite 0x80 0 0).i row)).getLsbD (7 - col) = true →
      (sprite 0x80 0 0).display.cell
        ((((sprite 0x80 0 0).readV 1).toNat + row) % 32 * 64 + (((sprite 0x80 0 0).readV 0).toNat + col) % 64) = false := by
  decide

theorem witness_KeyWait :
    (∀ k : Fin 16, State.reset.key.get k = false) ∧ (pressing 15 (by decide)).key.get 15 = true ∧
    (∀ j < (15 : Fin 16), (pressing 15 (by decide)).key.get j = false) ∧ (pressing 0 (by decide)).key.get 0 = true ∧
    State.reset.params.keywait = [] := by decide

theorem witness_KeyEventsSetLatches :
    0 < 16 ∧ 15 < 16 ∧ 16 ≤ 16 := by decide

theorem witness_RunFlagAndDirtyFlag :
    State.reset.halted = false ∧ stopped.halted = true := by decide

theorem witness_DebugWrites :
    (4095 < 4096 ∧ 255 < 256) ∧ 4096 ≤ 4096 ∧ 256 ≤ 256 ∧ 15 < 16 ∧ 16 ≤ 16 ∧ 0 ≠ 4095 := by decide

theorem witness_LoadCopiesImage :
    (List.replicate 3584 0x12#8).length ≤ 3584 ∧ 3584 < (List.replicate 3585 0x12#8).length ∧
    [0x12#8, 0x34#8][1]? = some 0x34#8 := by
  simp only [List.length_replicate]; decide

theorem witness_ResetReturnsToInitial :
    0x50 ≤ 0x50 ∧ 0x50 ≤ 0xFFF := by decide

theorem witness_QueriesAreReadOnly :
    4095 < 4096 ∧ 4096 ≤ 4096 ∧ 2047 < 2048 ∧ 2048 ≤ 2048 ∧ 15 < 16 ∧ 16 ≤ 16 ∧
    15 < (depth 16).sp.val ∧ (depth 16).sp.val ≤ 16 ∧ 0 < (depth 1).sp.val ∧ (depth 0).sp.val ≤ 0 := by decide

theorem witness_DisassemblerParity :
    4095 ≤ 4095 ∧ 4094 < 4095 := by decide

theorem witness_StepNCountsSuccesses :
    stopped.halted = true ∧ (stopped.stepN 5).2 < 5 := by decide

/-- Each clause of WritersOfEachField has an instruction that changes its field. -/
theorem witness_WritersOfEachField :
    (next? (exec (.stRegs 0) ((State.reset.writeV 0 0x55).setI 0x300))).map (fun t => t.memRead 0x300) = some 0x55 ∧
    (next? (exec .cls State.reset)).map (fun t => t.redrawPending) = some true ∧
    (next? (exec .cls (State.reset.setDisplay (Display.clear.toggle 0)))).map (fun t => t.display) = some Display.clear ∧
    (next? (exec (.ldImm 0xF 0x01) State.reset)).map (fun t => t.readV 0xF) = some 0x01 ∧
    (next? (exec (.ldI 0x123) State.reset)).map (fun t => t.i) = some 0x123 ∧
    (next? (exec (.call 0x300) State.reset)).map (fun t => (t.stack[0], t.sp)) = some (0x202, 1) ∧
    (next? (exec (.ldDtVx 0) (State.reset.writeV 0 0x55))).map (fun t => t.dt) = some 0x55 ∧
    (next? (exec (.ldStVx 0) (State.reset.writeV 0 0x55))).map (fun t => t.st) = some 0x55 ∧
    (next? (exec .ret State.reset)).map (fun t => t.halted) = some true ∧
    (next? (exec (.rnd 0 0x00) State.reset)).map (fun t => t.draws) = some 1 := by
  refine ⟨?_, ?_, ?_, ?_, ?_, ?_, ?_, ?_, ?_, rfl⟩ <;> decide

theorem witness_DisassemblyRendersForms :
    decodeWord ((State.reset.placeWord 0x6A42).byteAt 0x200 ++ (State.reset.placeWord 0x6A42).byteAt 0x201) = .ok (.ldImm 0xA 0x42) ∧
    unrecognized ((State.reset.placeWord 0x6A42).byteAt 0x200 ++ (State.reset.placeWord 0x6A42).byteAt 0x201) = false ∧
    unrecognized (State.reset.byteAt 4094 ++ State.reset.byteAt 4095) = true ∧ 4094 < 4095 ∧ 4095 ≤ 4095 ∧
    disasmForm (.shr 4 5) = disasmForm (.shr 4 5) := by decide

theorem witness_AdvanceClassOfEachRow :
    advanceClass .cls = .two ∧ advanceClass (.skp 0) = .skip ∧ advanceClass (.ldVxK 0) = .stay ∧ advanceClass (.sys 0) = .none ∧
    advanceClass .ret = .set ∧ 0 < (depth 1).sp.val ∧ (depth 15).sp.val < 16 ∧
    (pressing 0 (by decide)).key.get 0 = true ∧ skipTaken State.reset (.seImm 0 0) = true ∧ skipTaken State.reset (.skp 0) = false ∧
    State.reset.halted = false ∧ (next? (exec .ret (depth 0))).map (fun t => t.halted) = some true := by decide

/-- A state that meets the invariant and is not reset, not halted, and runs an instruction. -/
theorem witness_StepKeepsInvariant : (State.reset.placeWord 0x6A42).Inv := by
  refine ⟨by decide, by decide, by decide, ?_⟩
  intro r hr; cases hr

/-- A halted state that meets the invariant. -/
theorem witness_StepKeepsInvariant_halted : stopped.Inv := by
  refine ⟨by decide, by decide, by decide, ?_⟩
  intro r hr; cases hr; exact ⟨rfl, rfl⟩

theorem witness_EveryScheduleKeepsInvariant : stopped.Inv :=
  witness_StepKeepsInvariant_halted

/-- A schedule without reset, and a halted state. -/
theorem witness_HaltedUntilReset : Transaction.reset ∉ [Transaction.step, .tick, .stepN 3] ∧ stopped.halted = true := by decide

end Sys2Proof.Tests
end

section
/-! Control flow (41_control_flow): the 12-bit target as a word, the jump as an update of PC, and JP. -/

namespace Sys2Proof.Machine

/-- The target of a jump is the number nnn as a word of 16 bits, so its bits 15:12 are zero. -/
theorem addrOperand_eq_ofNat (nnn : Addr12) : addrOperand nnn = BitVec.ofNat 16 nnn.toNat :=
  (BitVec.ofNat_toNat 16 nnn).symm

/-- A jump as an update of the record: PC is its only write. -/
theorem State.jumpTo_eq_update (s : State) (w : Word) : s.jumpTo w = { s with pc := w } := rfl

/-- The rule of JP in terms of the shared jump (41_control_flow R133). -/
theorem exec_jp (nnn : Addr12) (s : State) : exec (.jp nnn) s = .next (s.jumpTo (addrOperand nnn)) := rfl

/-- Settles O16: JP is the shared jump, and its operand is nnn widened with zeros. -/
theorem jpSetsPc : Obligations.JpSetsPc := by
  intro nnn s
  rw [exec_jp, State.jumpTo_eq_update, addrOperand_eq_ofNat]

end Sys2Proof.Machine
end

section
/-! Skips (42_skips): what each of the four comparisons answers in terms of the shared `skipIf`, and `skipIf` as an update
of PC. -/

namespace Sys2Proof.Machine

/-- A skip as an update of the record: PC is its only write (42_skips R150). -/
theorem State.skipIf_decide_eq_update (s : State) (p : Prop) [Decidable p] :
    s.skipIf (decide p) = { s with pc := if p then s.pc + 4 else s.pc + 2 } := by
  by_cases h : p
  · rw [decide_eq_true h, if_pos h]; rfl
  · rw [decide_eq_false h, if_neg h]; rfl

/-- The rule of SE with an immediate in terms of the shared skip (42_skips R152). -/
theorem exec_seImm (x : Nibble) (nn : Byte) (s : State) :
    exec (.seImm x nn) s = .next (s.skipIf (decide (s.readV x = nn))) := rfl

/-- The rule of SNE with an immediate in terms of the shared skip (42_skips R154). -/
theorem exec_sneImm (x : Nibble) (nn : Byte) (s : State) :
    exec (.sneImm x nn) s = .next (s.skipIf (decide (s.readV x ≠ nn))) := rfl

/-- The rule of SE of two registers in terms of the shared skip (42_skips R156). -/
theorem exec_seReg (x y : Nibble) (s : State) :
    exec (.seReg x y) s = .next (s.skipIf (decide (s.readV x = s.readV y))) := rfl

/-- The rule of SNE of two registers in terms of the shared skip (42_skips R158). -/
theorem exec_sneReg (x y : Nibble) (s : State) :
    exec (.sneReg x y) s = .next (s.skipIf (decide (s.readV x ≠ s.readV y))) := rfl

/-- A register equals itself, so SE of it skips (42_skips R156). -/
theorem exec_seReg_self (x : Nibble) (s : State) : exec (.seReg x x) s = .next { s with pc := s.pc + 4 } := by
  rw [exec_seReg, State.skipIf_decide_eq_update, if_pos rfl]

/-- A register never differs from itself, so SNE of it takes the base advance (42_skips R158). -/
theorem exec_sneReg_self (x : Nibble) (s : State) : exec (.sneReg x x) s = .next { s with pc := s.pc + 2 } := by
  rw [exec_sneReg, State.skipIf_decide_eq_update, if_neg (not_not_intro rfl)]

/-- Settles O21: both are the shared skip on their comparison, and a skip writes PC only. -/
theorem immediateSkips : Obligations.ImmediateSkips := by
  intro x nn s
  constructor
  · rw [exec_seImm, State.skipIf_decide_eq_update]
  · rw [exec_sneImm, State.skipIf_decide_eq_update]

/-- Settles O22: both are the shared skip on their comparison, and with x = y the comparison is decided. -/
theorem registerSkips : Obligations.RegisterSkips := by
  refine ⟨fun x y s => ⟨?_, ?_⟩, fun x s => ⟨exec_seReg_self x s, exec_sneReg_self x s⟩⟩
  · rw [exec_seReg, State.skipIf_decide_eq_update]
  · rw [exec_sneReg, State.skipIf_decide_eq_update]

end Sys2Proof.Machine
end

section
/-! Immediate arithmetic (43_alu R170, R172): a register write and then the base advance, with its frame, and LD and ADD of
an immediate as that pair. -/

namespace Sys2Proof.Machine

/-- The register written reads as the byte, past the advance. -/
theorem State.readV_writeV_advance_self (s : State) (x : Nibble) (b : Byte) : (s.writeV x b).advance.readV x = b := by
  rw [State.readV_advance, State.readV_writeV, if_pos rfl]

/-- A register other than the one written reads as before, past the advance. -/
theorem State.readV_writeV_advance_of_ne (s : State) {x y : Nibble} (b : Byte) (h : y ≠ x) :
    (s.writeV x b).advance.readV y = s.readV y := by
  rw [State.readV_advance, State.readV_writeV, if_neg h]

/-- The frame of a register write and the base advance: PC and that register alone. -/
theorem State.writeV_advance_onlyV (s : State) (x : Nibble) (b : Byte) : OnlyV [x] s (s.writeV x b).advance := by
  have hv : SameV [x] s (s.writeV x b).advance := fun _ hy =>
    s.readV_writeV_advance_of_ne b (List.ne_of_not_mem_cons hy)
  have hrest : SameRest s (s.writeV x b).advance := ⟨rfl, rfl, rfl, rfl, rfl, rfl, rfl, rfl, rfl, rfl⟩
  exact ⟨hv, rfl, fun _ => rfl, ⟨fun _ => rfl, rfl⟩, hrest, rfl⟩

/-- The rule of LD with an immediate: one register write, then the base advance (43_alu R170). -/
theorem exec_ldImm (x : Nibble) (nn : Byte) (s : State) : exec (.ldImm x nn) s = .next (s.writeV x nn).advance := rfl

/-- The rule of ADD with an immediate: one register write, then the base advance (43_alu R172). -/
theorem exec_addImm (x : Nibble) (nn : Byte) (s : State) :
    exec (.addImm x nn) s = .next (s.writeV x (s.readV x + nn)).advance := rfl

/-- Settles O24: both are one register write and the base advance, and the sum of two bytes wraps at 256. -/
theorem immediateLoadAndAdd : Obligations.ImmediateLoadAndAdd := by
  intro x nn s
  constructor
  · exact ⟨_, exec_ldImm x nn s, s.readV_writeV_advance_self x nn, State.advance_pc _, s.writeV_advance_onlyV x nn⟩
  · have hsum : ((s.writeV x (s.readV x + nn)).advance.readV x).toNat = ((s.readV x).toNat + nn.toNat) % 256 := by
      rw [State.readV_writeV_advance_self, BitVec.toNat_add]
    exact ⟨_, exec_addImm x nn s, hsum, State.advance_pc _, s.writeV_advance_onlyV x _⟩

end Sys2Proof.Machine
end

section
/-! Timers (46_timers_keys R240, R244, R246): each transfer as one write and then the base advance. -/

namespace Sys2Proof.Machine

/-- A write of the delay timer and the base advance as an update of the record: DT and PC are the only writes. -/
theorem State.setDt_advance_eq_update (s : State) (b : Byte) :
    (s.setDt b).advance = { s with dt := b, pc := s.pc + 2 } := rfl

/-- A write of the sound timer and the base advance as an update of the record: ST and PC are the only writes. -/
theorem State.setSt_advance_eq_update (s : State) (b : Byte) :
    (s.setSt b).advance = { s with st := b, pc := s.pc + 2 } := rfl

/-- The rule of LD Vx, DT: one register write, then the base advance (46_timers_keys R240). -/
theorem exec_ldVxDt (x : Nibble) (s : State) : exec (.ldVxDt x) s = .next (s.writeV x s.dt).advance := rfl

/-- The rule of LD DT, Vx: one timer write, then the base advance (46_timers_keys R244). -/
theorem exec_ldDtVx (x : Nibble) (s : State) : exec (.ldDtVx x) s = .next (s.setDt (s.readV x)).advance := rfl

/-- The rule of LD ST, Vx: one timer write, then the base advance (46_timers_keys R246). -/
theorem exec_ldStVx (x : Nibble) (s : State) : exec (.ldStVx x) s = .next (s.setSt (s.readV x)).advance := rfl

/-- Settles O40: the read is one register write and the base advance, whose frame keeps DT; each of the others is one
timer write and the base advance. -/
theorem timerTransfers : Obligations.TimerTransfers := by
  intro x s
  refine ⟨?_, ?_, ?_⟩
  · exact ⟨_, exec_ldVxDt x s, s.readV_writeV_advance_self x s.dt, State.advance_pc _, s.writeV_advance_onlyV x s.dt⟩
  · rw [exec_ldDtVx, State.setDt_advance_eq_update]
  · rw [exec_ldStVx, State.setSt_advance_eq_update]

end Sys2Proof.Machine
end

section
/-! The decoder (30_encoding R85 to R91): one equation per family of `op`, the two directions of decoder against encoder, and
the unrecognized words by family. -/

namespace Sys2Proof

/-! ## One equation per family -/

section Families

variable {w : Word}

theorem decodeWord_of_op_0 (h : (describe w).op = 0x0#4) : decodeWord w = .ok (classify0 (describe w).nnn) := by
  simp [decodeWord, classify, h]

theorem decodeWord_of_op_1 (h : (describe w).op = 0x1#4) : decodeWord w = .ok (.jp (describe w).nnn) := by
  simp [decodeWord, classify, h]

theorem decodeWord_of_op_2 (h : (describe w).op = 0x2#4) : decodeWord w = .ok (.call (describe w).nnn) := by
  simp [decodeWord, classify, h]

theorem decodeWord_of_op_3 (h : (describe w).op = 0x3#4) :
    decodeWord w = .ok (.seImm (describe w).x (describe w).nn) := by
  simp [decodeWord, classify, h]

theorem decodeWord_of_op_4 (h : (describe w).op = 0x4#4) :
    decodeWord w = .ok (.sneImm (describe w).x (describe w).nn) := by
  simp [decodeWord, classify, h]

theorem decodeWord_of_op_5 (h : (describe w).op = 0x5#4) :
    decodeWord w = if (describe w).n = 0x0#4 then .ok (.seReg (describe w).x (describe w).y) else .error .family5 := by
  simp [decodeWord, classify, h]

theorem decodeWord_of_op_6 (h : (describe w).op = 0x6#4) :
    decodeWord w = .ok (.ldImm (describe w).x (describe w).nn) := by
  simp [decodeWord, classify, h]

theorem decodeWord_of_op_7 (h : (describe w).op = 0x7#4) :
    decodeWord w = .ok (.addImm (describe w).x (describe w).nn) := by
  simp [decodeWord, classify, h]

theorem decodeWord_of_op_8 (h : (describe w).op = 0x8#4) :
    decodeWord w = classify8 (describe w).x (describe w).y (describe w).n := by
  simp [decodeWord, classify, h]

theorem decodeWord_of_op_9 (h : (describe w).op = 0x9#4) :
    decodeWord w = if (describe w).n = 0x0#4 then .ok (.sneReg (describe w).x (describe w).y) else .error .family9 := by
  simp [decodeWord, classify, h]

theorem decodeWord_of_op_A (h : (describe w).op = 0xA#4) : decodeWord w = .ok (.ldI (describe w).nnn) := by
  simp [decodeWord, classify, h]

theorem decodeWord_of_op_B (h : (describe w).op = 0xB#4) : decodeWord w = .ok (.jpV0 (describe w).nnn) := by
  simp [decodeWord, classify, h]

theorem decodeWord_of_op_C (h : (describe w).op = 0xC#4) :
    decodeWord w = .ok (.rnd (describe w).x (describe w).nn) := by
  simp [decodeWord, classify, h]

theorem decodeWord_of_op_D (h : (describe w).op = 0xD#4) :
    decodeWord w = .ok (.drw (describe w).x (describe w).y (describe w).n) := by
  simp [decodeWord, classify, h]

theorem decodeWord_of_op_E (h : (describe w).op = 0xE#4) : decodeWord w = classifyE (describe w).x (describe w).nn := by
  simp [decodeWord, classify, h]

theorem decodeWord_of_op_F (h : (describe w).op = 0xF#4) : decodeWord w = classifyF (describe w).x (describe w).nn := by
  simp [decodeWord, classify, h]

end Families

/-! ## Decoder after encoder -/

/-- The decoder gives a well-formed instruction back from its word: its layout has the fields of R82, and its `op` and
selector choose its own branch. -/
theorem decodeWord_encode {i : Instr} (h : i.wf = true) : decodeWord (encode i) = .ok i := by
  cases i
  case sys nnn =>
    have ⟨hcls, hret⟩ : nnn ≠ 0x0E0#12 ∧ nnn ≠ 0x0EE#12 := by simpa [Instr.wf] using h
    simp [decodeWord, encode, classify, classify0, hcls, hret]
  case cls => rfl
  case ret => rfl
  all_goals simp [decodeWord, encode, classify, classify8, classifyE, classifyF]

/-- Settles O2: on the word by the layouts' fields, and on bytes because the two bytes of a word are the word. -/
theorem decodeInvertsEncode : Obligations.DecodeInvertsEncode := by
  intro i hwf
  have hword : decodeWord (encode i) = .ok i := decodeWord_encode hwf
  refine ⟨hword, fun rest => ?_⟩
  rw [decode_bytesOfWord, hword]

/-! ## Encoder after decoder -/

/-- An instruction is well formed and has this word. -/
def Encodes (i : Instr) (w : Word) : Prop :=
  i.wf = true ∧ encode i = w

theorem Encodes.of_eq {i : Instr} {v w : Word} (h : Encodes i v) (e : v = w) : Encodes i w :=
  ⟨h.1, h.2.trans e⟩

theorem classify0_encodes (nnn : Addr12) : Encodes (classify0 nnn) (0x0#4 ++ nnn) := by
  unfold classify0
  split_ifs with hcls hret
  · subst hcls; exact ⟨rfl, rfl⟩
  · subst hret; exact ⟨rfl, rfl⟩
  · exact ⟨by simp [Instr.wf, hcls, hret], rfl⟩

theorem classify8_encodes {x y n : Nibble} {i : Instr} (h : classify8 x y n = .ok i) :
    Encodes i (0x8#4 ++ x ++ y ++ n) := by
  unfold classify8 at h
  split_ifs at h <;> (cases h; subst n; exact ⟨rfl, rfl⟩)

theorem classifyE_encodes {x : Nibble} {nn : Byte} {i : Instr} (h : classifyE x nn = .ok i) :
    Encodes i (0xE#4 ++ x ++ nn) := by
  unfold classifyE at h
  split_ifs at h <;> (cases h; subst nn; exact ⟨rfl, rfl⟩)

theorem classifyF_encodes {x : Nibble} {nn : Byte} {i : Instr} (h : classifyF x nn = .ok i) :
    Encodes i (0xF#4 ++ x ++ nn) := by
  unfold classifyF at h
  split_ifs at h <;> (cases h; subst nn; exact ⟨rfl, rfl⟩)

section Layouts

variable {w : Word} {o : Nibble}

/-- A word with this `op` in the layout of an address (30_encoding R82). -/
theorem eq_address_layout (h : (describe w).op = o) : o ++ (describe w).nnn = w :=
  h ▸ address_of_describe w

/-- A word with this `op` in the layout of a register and a byte (30_encoding R82). -/
theorem eq_byte_layout (h : (describe w).op = o) : o ++ (describe w).x ++ (describe w).nn = w :=
  h ▸ byte_of_describe w

/-- A word with this `op` in the layout of three nibbles (30_encoding R82). -/
theorem eq_nibbles_layout (h : (describe w).op = o) :
    o ++ (describe w).x ++ (describe w).y ++ (describe w).n = w :=
  h ▸ nibbles_of_describe w

/-- The same layout with a known selector in the low nibble. -/
theorem eq_selector_layout {k : Nibble} (h : (describe w).op = o) (hn : (describe w).n = k) :
    o ++ (describe w).x ++ (describe w).y ++ k = w :=
  hn ▸ eq_nibbles_layout h

end Layouts

/-- A word that decodes is the word of what it decodes to: each branch keeps every field of its layout. -/
theorem encodes_of_decodeWord {w : Word} {i : Instr} (h : decodeWord w = .ok i) : Encodes i w := by
  rcases nibble_cases (describe w).op with
    ho | ho | ho | ho | ho | ho | ho | ho | ho | ho | ho | ho | ho | ho | ho | ho
  · rw [decodeWord_of_op_0 ho] at h; cases h
    exact (classify0_encodes _).of_eq (eq_address_layout ho)
  · rw [decodeWord_of_op_1 ho] at h; cases h
    exact ⟨rfl, eq_address_layout ho⟩
  · rw [decodeWord_of_op_2 ho] at h; cases h
    exact ⟨rfl, eq_address_layout ho⟩
  · rw [decodeWord_of_op_3 ho] at h; cases h
    exact ⟨rfl, eq_byte_layout ho⟩
  · rw [decodeWord_of_op_4 ho] at h; cases h
    exact ⟨rfl, eq_byte_layout ho⟩
  · rw [decodeWord_of_op_5 ho] at h
    split_ifs at h with hn; cases h
    exact ⟨rfl, eq_selector_layout ho hn⟩
  · rw [decodeWord_of_op_6 ho] at h; cases h
    exact ⟨rfl, eq_byte_layout ho⟩
  · rw [decodeWord_of_op_7 ho] at h; cases h
    exact ⟨rfl, eq_byte_layout ho⟩
  · rw [decodeWord_of_op_8 ho] at h
    exact (classify8_encodes h).of_eq (eq_nibbles_layout ho)
  · rw [decodeWord_of_op_9 ho] at h
    split_ifs at h with hn; cases h
    exact ⟨rfl, eq_selector_layout ho hn⟩
  · rw [decodeWord_of_op_A ho] at h; cases h
    exact ⟨rfl, eq_address_layout ho⟩
  · rw [decodeWord_of_op_B ho] at h; cases h
    exact ⟨rfl, eq_address_layout ho⟩
  · rw [decodeWord_of_op_C ho] at h; cases h
    exact ⟨rfl, eq_byte_layout ho⟩
  · rw [decodeWord_of_op_D ho] at h; cases h
    exact ⟨rfl, eq_nibbles_layout ho⟩
  · rw [decodeWord_of_op_E ho] at h
    exact (classifyE_encodes h).of_eq (eq_byte_layout ho)
  · rw [decodeWord_of_op_F ho] at h
    exact (classifyF_encodes h).of_eq (eq_byte_layout ho)

/-- Settles O3: no branch of the decoder drops a field. -/
theorem encodeInvertsDecode : Obligations.EncodeInvertsDecode :=
  fun _ _ h => encodes_of_decodeWord h

end Sys2Proof
end

section
/-! The unrecognized words (30_encoding R89): what the test says, in terms of the decoder and in each family. -/

namespace Sys2Proof

/-- A word is unrecognized when the decoder gives SYS or no instruction (30_encoding R89). -/
theorem unrecognized_iff (w : Word) :
    unrecognized w = true ↔ (∃ nnn, decodeWord w = .ok (.sys nnn)) ∨ ∃ e, decodeWord w = .error e := by
  unfold unrecognized
  cases decodeWord w with
  | error e => simp
  | ok i => cases i <;> simp

/-- A word that decodes is unrecognized exactly when it is a SYS word. -/
theorem unrecognized_of_decodeWord {w : Word} {i : Instr} (h : decodeWord w = .ok i) :
    unrecognized w = true ↔ ∃ nnn, i = .sys nnn := by
  simp [unrecognized_iff, h]

theorem unrecognized_of_error {w : Word} {e : DecodeError} (h : decodeWord w = .error e) : unrecognized w = true :=
  (unrecognized_iff w).mpr (.inr ⟨e, h⟩)

/-- The 0 family: all but CLS and RET. -/
theorem unrecognized_of_op_0 {w : Word} (h : (describe w).op = 0x0#4) :
    unrecognized w = true ↔ (describe w).nnn ≠ 0x0E0#12 ∧ (describe w).nnn ≠ 0x0EE#12 := by
  rw [unrecognized_of_decodeWord (decodeWord_of_op_0 h), classify0]
  split_ifs with hcls hret <;> simp [*]

/-- The 5 family: a low nibble that is not 0. -/
theorem unrecognized_of_op_5 {w : Word} (h : (describe w).op = 0x5#4) :
    unrecognized w = true ↔ (describe w).n ≠ 0x0#4 := by
  rw [unrecognized_iff, decodeWord_of_op_5 h]
  split_ifs with hn <;> simp [hn]

/-- The 9 family: a low nibble that is not 0. -/
theorem unrecognized_of_op_9 {w : Word} (h : (describe w).op = 0x9#4) :
    unrecognized w = true ↔ (describe w).n ≠ 0x0#4 := by
  rw [unrecognized_iff, decodeWord_of_op_9 h]
  split_ifs with hn <;> simp [hn]

/-- The 8 family: the seven selectors that are no operation. -/
theorem unrecognized_of_op_8 {w : Word} (h : (describe w).op = 0x8#4) :
    unrecognized w = true ↔ (describe w).n ∈ [0x8#4, 0x9#4, 0xA#4, 0xB#4, 0xC#4, 0xD#4, 0xF#4] := by
  rw [unrecognized_iff, decodeWord_of_op_8 h]
  generalize (describe w).n = n
  rcases nibble_cases n with
    rfl | rfl | rfl | rfl | rfl | rfl | rfl | rfl | rfl | rfl | rfl | rfl | rfl | rfl | rfl | rfl <;>
    simp [classify8]

/-- The E family: all but the two key skips. -/
theorem unrecognized_of_op_E {w : Word} (h : (describe w).op = 0xE#4) :
    unrecognized w = true ↔ (describe w).nn ∉ [0x9E#8, 0xA1#8] := by
  rw [unrecognized_iff, decodeWord_of_op_E h, classifyE]
  split_ifs with h1 h2 <;> simp [*]

/-- The F family: all but the nine selectors. -/
theorem unrecognized_of_op_F {w : Word} (h : (describe w).op = 0xF#4) :
    unrecognized w = true ↔
      (describe w).nn ∉ [0x07#8, 0x0A#8, 0x15#8, 0x18#8, 0x1E#8, 0x29#8, 0x33#8, 0x55#8, 0x65#8] := by
  rw [unrecognized_iff, decodeWord_of_op_F h, classifyF]
  split_ifs <;> simp [*]

/-- The families without a selector (30_encoding R86). -/
def plainOps : List Nibble :=
  [0x1#4, 0x2#4, 0x3#4, 0x4#4, 0x6#4, 0x7#4, 0xA#4, 0xB#4, 0xC#4, 0xD#4]

/-- A value of `op` is one of a family without a selector, or one of the six with one. -/
theorem op_cases (o : Nibble) :
    (o ∈ plainOps ∧ o ≠ 0x0#4 ∧ o ≠ 0x5#4 ∧ o ≠ 0x8#4 ∧ o ≠ 0x9#4 ∧ o ≠ 0xE#4 ∧ o ≠ 0xF#4) ∨
      o = 0x0#4 ∨ o = 0x5#4 ∨ o = 0x8#4 ∨ o = 0x9#4 ∨ o = 0xE#4 ∨ o = 0xF#4 := by
  revert o; decide

/-- The families without a selector recognize every word. -/
theorem recognized_of_op {w : Word} (h : (describe w).op ∈ plainOps) : ¬ unrecognized w = true := by
  simp only [plainOps, List.mem_cons, List.not_mem_nil, or_false] at h
  rcases h with h | h | h | h | h | h | h | h | h | h
  · simp [unrecognized_of_decodeWord (decodeWord_of_op_1 h)]
  · simp [unrecognized_of_decodeWord (decodeWord_of_op_2 h)]
  · simp [unrecognized_of_decodeWord (decodeWord_of_op_3 h)]
  · simp [unrecognized_of_decodeWord (decodeWord_of_op_4 h)]
  · simp [unrecognized_of_decodeWord (decodeWord_of_op_6 h)]
  · simp [unrecognized_of_decodeWord (decodeWord_of_op_7 h)]
  · simp [unrecognized_of_decodeWord (decodeWord_of_op_A h)]
  · simp [unrecognized_of_decodeWord (decodeWord_of_op_B h)]
  · simp [unrecognized_of_decodeWord (decodeWord_of_op_C h)]
  · simp [unrecognized_of_decodeWord (decodeWord_of_op_D h)]

/-- The six families of R89, by the fields of the descriptor. -/
theorem unrecognized_iff_fields (w : Word) : unrecognized w = true ↔
    ((describe w).op = 0x0#4 ∧ (describe w).nnn ≠ 0x0E0#12 ∧ (describe w).nnn ≠ 0x0EE#12) ∨
    ((describe w).op = 0x5#4 ∧ (describe w).n ≠ 0x0#4) ∨
    ((describe w).op = 0x8#4 ∧ (describe w).n ∈ [0x8#4, 0x9#4, 0xA#4, 0xB#4, 0xC#4, 0xD#4, 0xF#4]) ∨
    ((describe w).op = 0x9#4 ∧ (describe w).n ≠ 0x0#4) ∨
    ((describe w).op = 0xE#4 ∧ (describe w).nn ∉ [0x9E#8, 0xA1#8]) ∨
    ((describe w).op = 0xF#4 ∧
      (describe w).nn ∉ [0x07#8, 0x0A#8, 0x15#8, 0x18#8, 0x1E#8, 0x29#8, 0x33#8, 0x55#8, 0x65#8]) := by
  rcases op_cases (describe w).op with ⟨hplain, h0, h5, h8, h9, hE, hF⟩ | ho | ho | ho | ho | ho | ho
  · simp [recognized_of_op hplain, h0, h5, h8, h9, hE, hF]
  · rw [unrecognized_of_op_0 ho]; simp [ho]
  · rw [unrecognized_of_op_5 ho]; simp [ho]
  · rw [unrecognized_of_op_8 ho]; simp [ho]
  · rw [unrecognized_of_op_9 ho]; simp [ho]
  · rw [unrecognized_of_op_E ho]; simp [ho]
  · rw [unrecognized_of_op_F ho]; simp [ho]

/-- Settles O4: the descriptor's fields are the bits the statement names. -/
theorem unrecognizedWordsAreThoseListed : Obligations.UnrecognizedWordsAreThoseListed :=
  unrecognized_iff_fields

end Sys2Proof
end

section
/-! The rows of the opcode table (30_encoding R87, R91) against the decoder: the fields a row's mask fixes, and the row of the
word each instruction has. -/

namespace Sys2Proof

/-! ## The fields a mask fixes -/

section Masks

variable {w m p : Word}

/-- A mask that covers `op` fixes it. -/
theorem op_of_mask (h : w &&& m = p) (hm : (describe m).op = 0xF#4) : (describe w).op = (describe p).op := by
  have hand : (describe (w &&& m)).op = (describe w).op &&& (describe m).op := BitVec.extractLsb'_and
  rw [← h, hand, hm, and_nibble_ones]

/-- A mask that covers the low nibble fixes it. -/
theorem n_of_mask (h : w &&& m = p) (hm : (describe m).n = 0xF#4) : (describe w).n = (describe p).n := by
  have hand : (describe (w &&& m)).n = (describe w).n &&& (describe m).n := BitVec.extractLsb'_and
  rw [← h, hand, hm, and_nibble_ones]

/-- A mask that covers the low byte fixes it. -/
theorem nn_of_mask (h : w &&& m = p) (hm : (describe m).nn = 0xFF#8) : (describe w).nn = (describe p).nn := by
  have hand : (describe (w &&& m)).nn = (describe w).nn &&& (describe m).nn := BitVec.extractLsb'_and
  rw [← h, hand, hm, and_byte_ones]

theorem decodeWord_of_selector_5 (h : w &&& 0xF00F#16 = 0x5000#16) :
    decodeWord w = .ok (.seReg (describe w).x (describe w).y) :=
  (decodeWord_of_op_5 (op_of_mask h rfl)).trans (if_pos (n_of_mask h rfl))

theorem decodeWord_of_selector_9 (h : w &&& 0xF00F#16 = 0x9000#16) :
    decodeWord w = .ok (.sneReg (describe w).x (describe w).y) :=
  (decodeWord_of_op_9 (op_of_mask h rfl)).trans (if_pos (n_of_mask h rfl))

/-- A row of the 8 family decodes by the selector of its pattern. -/
theorem decodeWord_of_selector_8 (h : w &&& 0xF00F#16 = p) (hp : (describe p).op = 0x8#4) :
    decodeWord w = classify8 (describe w).x (describe w).y (describe p).n := by
  rw [decodeWord_of_op_8 ((op_of_mask h rfl).trans hp), n_of_mask h rfl]

/-- A row of the E family decodes by the selector of its pattern. -/
theorem decodeWord_of_selector_E (h : w &&& 0xF0FF#16 = p) (hp : (describe p).op = 0xE#4) :
    decodeWord w = classifyE (describe w).x (describe p).nn := by
  rw [decodeWord_of_op_E ((op_of_mask h rfl).trans hp), nn_of_mask h rfl]

/-- A row of the F family decodes by the selector of its pattern. -/
theorem decodeWord_of_selector_F (h : w &&& 0xF0FF#16 = p) (hp : (describe p).op = 0xF#4) :
    decodeWord w = classifyF (describe w).x (describe p).nn := by
  rw [decodeWord_of_op_F ((op_of_mask h rfl).trans hp), nn_of_mask h rfl]

end Masks

/-! ## Rows -/

/-- A word in a row other than SYS decodes to an instruction of the row: the mask fixes `op` and the selector. -/
theorem decodes_of_row {w : Word} {r : OpcodeRow} (hr : r ∈ opcodeRows) (hsys : r ≠ ⟨0xF000, 0x0000⟩)
    (h : w &&& r.mask = r.pattern) : ∃ i, decodeWord w = .ok i ∧ i.row = r := by
  simp only [opcodeRows, List.cons_append, List.nil_append, List.mem_cons, List.not_mem_nil, or_false] at hr
  rcases hr with
    rfl | rfl | rfl | rfl | rfl | rfl | rfl | rfl | rfl | rfl | rfl | rfl | rfl | rfl | rfl | rfl | rfl | rfl |
    rfl | rfl | rfl | rfl | rfl | rfl | rfl | rfl | rfl | rfl | rfl | rfl | rfl | rfl | rfl | rfl | rfl
  · exact absurd rfl hsys
  · obtain rfl := (BitVec.and_allOnes (x := w)).symm.trans h
    exact ⟨_, rfl, rfl⟩
  · obtain rfl := (BitVec.and_allOnes (x := w)).symm.trans h
    exact ⟨_, rfl, rfl⟩
  · exact ⟨_, decodeWord_of_op_1 (op_of_mask h rfl), rfl⟩
  · exact ⟨_, decodeWord_of_op_2 (op_of_mask h rfl), rfl⟩
  · exact ⟨_, decodeWord_of_op_3 (op_of_mask h rfl), rfl⟩
  · exact ⟨_, decodeWord_of_op_4 (op_of_mask h rfl), rfl⟩
  · exact ⟨_, decodeWord_of_selector_5 h, rfl⟩
  · exact ⟨_, decodeWord_of_op_6 (op_of_mask h rfl), rfl⟩
  · exact ⟨_, decodeWord_of_op_7 (op_of_mask h rfl), rfl⟩
  · exact ⟨_, decodeWord_of_selector_8 h rfl, rfl⟩
  · exact ⟨_, decodeWord_of_selector_8 h rfl, rfl⟩
  · exact ⟨_, decodeWord_of_selector_8 h rfl, rfl⟩
  · exact ⟨_, decodeWord_of_selector_8 h rfl, rfl⟩
  · exact ⟨_, decodeWord_of_selector_8 h rfl, rfl⟩
  · exact ⟨_, decodeWord_of_selector_8 h rfl, rfl⟩
  · exact ⟨_, decodeWord_of_selector_8 h rfl, rfl⟩
  · exact ⟨_, decodeWord_of_selector_8 h rfl, rfl⟩
  · exact ⟨_, decodeWord_of_selector_8 h rfl, rfl⟩
  · exact ⟨_, decodeWord_of_selector_9 h, rfl⟩
  · exact ⟨_, decodeWord_of_op_A (op_of_mask h rfl), rfl⟩
  · exact ⟨_, decodeWord_of_op_B (op_of_mask h rfl), rfl⟩
  · exact ⟨_, decodeWord_of_op_C (op_of_mask h rfl), rfl⟩
  · exact ⟨_, decodeWord_of_op_D (op_of_mask h rfl), rfl⟩
  · exact ⟨_, decodeWord_of_selector_E h rfl, rfl⟩
  · exact ⟨_, decodeWord_of_selector_E h rfl, rfl⟩
  · exact ⟨_, decodeWord_of_selector_F h rfl, rfl⟩
  · exact ⟨_, decodeWord_of_selector_F h rfl, rfl⟩
  · exact ⟨_, decodeWord_of_selector_F h rfl, rfl⟩
  · exact ⟨_, decodeWord_of_selector_F h rfl, rfl⟩
  · exact ⟨_, decodeWord_of_selector_F h rfl, rfl⟩
  · exact ⟨_, decodeWord_of_selector_F h rfl, rfl⟩
  · exact ⟨_, decodeWord_of_selector_F h rfl, rfl⟩
  · exact ⟨_, decodeWord_of_selector_F h rfl, rfl⟩
  · exact ⟨_, decodeWord_of_selector_F h rfl, rfl⟩

open Laws.RowMatch in
/-- The word of every instruction is in its row: the laws of the rows, one for each constructor. -/
theorem encode_mem_row (i : Instr) : encode i &&& i.row.mask = i.row.pattern := by
  cases i
  exacts [sys _, cls, ret, jp _, call _, seImm _ _, sneImm _ _, seReg _ _, ldImm _ _, addImm _ _, ldReg _ _, orReg _ _,
    andReg _ _, xorReg _ _, addReg _ _, sub _ _, shr _ _, subn _ _, shl _ _, sneReg _ _, ldI _, jpV0 _, rnd _ _,
    drw _ _ _, skp _, sknp _, ldVxDt _, ldVxK _, ldDtVx _, ldStVx _, addI _, ldF _, ldB _, stRegs _, ldRegs _]

/-- Settles O5: one way the mask fixes the fields the decoder reads, the other the word is the encoding of what it
decodes to. -/
theorem opcodeRowsMatchDecoder : Obligations.OpcodeRowsMatchDecoder := by
  intro w r hr hsys
  constructor
  · exact decodes_of_row hr hsys
  · rintro ⟨i, hi, rfl⟩
    obtain ⟨-, hw⟩ := encodes_of_decodeWord hi
    exact hw ▸ encode_mem_row i

/-! ## Words written out -/

/-- Settles O1: each word is a literal, which the decoder evaluates. -/
theorem specWordsDecode : Obligations.SpecWordsDecode := by
  unfold Obligations.SpecWordsDecode
  decide

end Sys2Proof
end

section
/-! Fetch (20_memory R64) and the disassembler (30_encoding R93, 60_exceptions R303): the number a fetched word is, a placed
word, and the forms of R93 read back to their instruction. -/

namespace Sys2Proof.Machine

/-! ## Fetch -/

/-- A word of two bytes as a number: big-endian (20_memory R64). -/
theorem wordOfBytes_toNat (hi lo : Byte) : (wordOfBytes hi lo).toNat = hi.toNat * 256 + lo.toNat := by
  rw [wordOfBytes, BitVec.toNat_append, ← Nat.shiftLeft_add_eq_or_of_lt lo.isLt, Nat.shiftLeft_eq]

theorem State.fetchWord_toNat (s : State) : s.fetchWord.toNat =
    (s.byteAt (s.pc.toNat % 4096)).toNat * 256 + (s.byteAt ((s.pc.toNat + 1) % 4096)).toNat :=
  wordOfBytes_toNat _ _

/-- Settles O6: the two bytes are read at reduced addresses, and after 0xFFF comes 0x000. -/
theorem fetchIsBigEndian : Obligations.FetchIsBigEndian := by
  intro s
  refine ⟨s.fetchWord_toNat, fun hpc => ?_⟩
  have hnext : (s.pc.toNat + 1) % 4096 = 0x000 := by omega
  rw [s.fetchWord_toNat, hpc, hnext]

/-- What the decoder reads from the bits of a table row is what it reads from the word (30_encoding R81). -/
theorem decodeTableWord_eq_some {nbits w : Nat} {i : Instr} :
    decodeTableWord nbits w = some i ↔ decodeWord (tableWord nbits w) = .ok i := by
  have hbytes := decode_bytesOfWord (tableWord nbits w) []
  rw [List.append_nil] at hbytes
  rw [decodeTableWord, hbytes]
  cases decodeWord (tableWord nbits w) <;> simp

theorem tableWord_of_lt {w : Nat} (h : w < 65536) : tableWord 16 w = BitVec.ofNat 16 w := by
  rw [tableWord, Nat.mod_eq_of_lt (by simpa using h)]

/-- Settles O7: the placed word is fetched at every PC, and the table's bits are that word. -/
theorem placedWordIsFetched : Obligations.PlacedWordIsFetched := by
  intro s w hw
  have hfetch : (s.withFetchWord 16 w).fetchWord = BitVec.ofNat 16 w :=
    (s.fetchWord_placeWord _).trans (tableWord_of_lt hw)
  refine ⟨hfetch, rfl, fun i => ?_⟩
  rw [decodeTableWord_eq_some, hfetch, tableWord_of_lt hw]

/-! ## Decoder parity -/

theorem disasmWord_eq_unknown (w : Word) : disasmWord w = .unknown w ↔ unrecognized w = true := by
  rcases disasmWord_cases w with ⟨hu, hd⟩ | ⟨hu, i, -, hd⟩ <;> simp [hu, hd]

theorem disasmWord_eq_known (w : Word) (i : Instr) :
    disasmWord w = .known i ↔ decodeWord w = .ok i ∧ unrecognized w = false := by
  rcases disasmWord_cases w with ⟨hu, hd⟩ | ⟨hu, j, hj, hd⟩
  · simp [hu, hd]
  · simp [hu, hd, hj]

theorem State.disasmToken_of_ge (s : State) {a : Nat} (h : 4095 ≤ a) : s.disasmToken a = .outOfBounds :=
  if_pos h

theorem State.disasmToken_of_lt (s : State) {a : Nat} (h : a < 4095) :
    s.disasmToken a = disasmWord (s.byteAt a ++ s.byteAt (a + 1)) :=
  if_neg (Nat.not_le.mpr h)

/-- Settles O50: the classification of a word and the decoder's answer agree, and the bound is 4095. -/
theorem disassemblerParity : Obligations.DisassemblerParity :=
  ⟨fun w => ⟨disasmWord_eq_unknown w, disasmWord_eq_known w⟩,
    fun s _ => ⟨s.disasmToken_of_ge, s.disasmToken_of_lt⟩⟩

/-! ## The forms of R93 read back -/

/-- The byte of two hex digits. -/
def digitsByte (high low : Nibble) : Byte :=
  high ++ low

/-- The address of three hex digits. -/
def digitsAddr (high middle low : Nibble) : Addr12 :=
  high ++ middle ++ low

@[simp] theorem digitsByte_of_digits (b : Byte) : digitsByte (b.extractLsb' 4 4) (b.extractLsb' 0 4) = b :=
  (append_extract (m := 4) (n := 4) b 0).trans (extract_all b)

@[simp] theorem digitsAddr_of_digits (a : Addr12) :
    digitsAddr (a.extractLsb' 8 4) (a.extractLsb' 4 4) (a.extractLsb' 0 4) = a :=
  (congrArg (· ++ a.extractLsb' 0 4) (append_extract (m := 4) (n := 4) a 4)).trans
    ((append_extract (m := 8) (n := 4) a 0).trans (extract_all a))

/-- The row of a form with two registers, by its mnemonic. -/
def registersRow (mnemonic : String) (x y : Nibble) : Instr :=
  if mnemonic = "SE" then .seReg x y
  else if mnemonic = "SNE" then .sneReg x y
  else if mnemonic = "LD" then .ldReg x y
  else if mnemonic = "OR" then .orReg x y
  else if mnemonic = "AND" then .andReg x y
  else if mnemonic = "XOR" then .xorReg x y
  else if mnemonic = "ADD" then .addReg x y
  else if mnemonic = "SUB" then .sub x y
  else .subn x y

/-- The row of a form with a register and a byte, by its mnemonic. -/
def byteRow (mnemonic : String) (x : Nibble) (nn : Byte) : Instr :=
  if mnemonic = "SE" then .seImm x nn
  else if mnemonic = "SNE" then .sneImm x nn
  else if mnemonic = "LD" then .ldImm x nn
  else if mnemonic = "ADD" then .addImm x nn
  else .rnd x nn

/-- The row of a load from a named operand. -/
def fromNamedRow (name : String) (x : Nibble) : Instr :=
  if name = "DT" then .ldVxDt x else if name = "K" then .ldVxK x else .ldRegs x

/-- The row of a load or an addition to a named operand. -/
def toNamedRow (mnemonic name : String) (x : Nibble) : Instr :=
  if mnemonic = "ADD" then .addI x
  else if name = "DT" then .ldDtVx x
  else if name = "ST" then .ldStVx x
  else if name = "F" then .ldF x
  else if name = "B" then .ldB x
  else .stRegs x

/-- The instruction of a form of R93: the kinds of its operands choose a group of rows, and the names in it the row. -/
def instrOfForm (mnemonic : String) : List DisasmOperand → Option Instr
  | [] => some (if mnemonic = "CLS" then .cls else .ret)
  | [.addr a b c] =>
    some (if mnemonic = "SYS" then .sys (digitsAddr a b c)
      else if mnemonic = "JP" then .jp (digitsAddr a b c) else .call (digitsAddr a b c))
  | [.reg _, .addr a b c] => some (.jpV0 (digitsAddr a b c))
  | [.named _, .addr a b c] => some (.ldI (digitsAddr a b c))
  | [.reg x] => some (if mnemonic = "SKP" then .skp x else .sknp x)
  | [.reg x, .byte h l] => some (byteRow mnemonic x (digitsByte h l))
  | [.reg x, .reg y] => some (registersRow mnemonic x y)
  | [.reg x, .optionalReg y] => some (if mnemonic = "SHR" then .shr x y else .shl x y)
  | [.reg x, .reg y, .height n] => some (.drw x y n)
  | [.reg x, .named name] => some (fromNamedRow name x)
  | [.named name, .reg x] => some (toNamedRow mnemonic name x)
  | _ => none

/-- Every form of R93 reads back to its instruction: the mnemonic and the kinds of the operands name the row, and the
digits name each operand. -/
theorem instrOfForm_disasmForm (i : Instr) : instrOfForm (disasmForm i).1 (disasmForm i).2 = some i := by
  cases i <;> simp [disasmForm, instrOfForm, hexByte, hexAddr, registersRow, byteRow, fromNamedRow, toNamedRow]

theorem disasmForm_injective {i j : Instr} (h : disasmForm i = disasmForm j) : i = j := by
  have hi := instrOfForm_disasmForm i
  rw [h, instrOfForm_disasmForm j] at hi
  exact (Option.some.inj hi).symm

theorem State.disassembly_of_recognized (s : State) {a : Nat} (ha : a < 4095) {i : Instr}
    (hi : decodeWord (s.byteAt a ++ s.byteAt (a + 1)) = .ok i)
    (hu : unrecognized (s.byteAt a ++ s.byteAt (a + 1)) = false) :
    s.disassembly a = .instruction (disasmForm i).1 (disasmForm i).2 := by
  rw [State.disassembly, s.disasmToken_of_lt ha, (disasmWord_eq_known _ i).mpr ⟨hi, hu⟩]; rfl

theorem State.disassembly_of_unrecognized (s : State) {a : Nat} (ha : a < 4095)
    (hu : unrecognized (s.byteAt a ++ s.byteAt (a + 1)) = true) :
    s.disassembly a = .unknown (s.byteAt a ++ s.byteAt (a + 1)) := by
  rw [State.disassembly, s.disasmToken_of_lt ha, (disasmWord_eq_unknown _).mpr hu]; rfl

theorem State.disassembly_of_ge (s : State) {a : Nat} (ha : 4095 ≤ a) : s.disassembly a = .outOfBounds := by
  rw [State.disassembly, s.disasmToken_of_ge ha]; rfl

/-- A disassembly answers the open text of the rendering and keeps the state (60_exceptions R303, R301). -/
theorem transact_disassemble (a : Nat) (s : State) :
    transact (.disassemble a) s = (s, .text (Config.disasmText (s.disassembly a))) := rfl

/-- Settles O59: the three renderings by the classification of the word, and the forms by reading them back. -/
theorem disassemblyRendersForms : Obligations.DisassemblyRendersForms := by
  refine ⟨fun s a ha => ⟨fun i hi hu => ?_, fun hu => ?_⟩, fun s a ha => ?_, fun _ _ => disasmForm_injective⟩
  · rw [transact_disassemble, s.disassembly_of_recognized ha hi hu]
  · rw [transact_disassemble, s.disassembly_of_unrecognized ha hu]
  · rw [transact_disassemble, s.disassembly_of_ge ha]

end Sys2Proof.Machine
end

section
/-! The outcomes of a step (40_execution_cycle R110 to R122, 60_exceptions R261 to R264): it completes and is counted, or it
takes the one fault whose cause holds. -/

namespace Sys2Proof.Machine

/-- A rule or a step answers one next state. -/
theorem next_unique {o : Result State} {t u : State} (ht : o = .next t) (hu : o = .next u) : t = u :=
  Host.Outcome.next.inj (ht.symm.trans hu)

/-! ## Causes of a fault -/

/-- What raises each execution fault on the word w (60_exceptions R261). -/
def FaultCause (w : Word) (s : State) : FaultKind → Prop
  | .stackOverflow => s.sp.val = 16 ∧ ∃ nnn, decodeWord w = .ok (.call nnn)
  | .stackUnderflow => s.sp.val = 0 ∧ decodeWord w = .ok .ret
  | .unknownInstruction => unrecognized w = true

/-- The only fault a word can raise, by what it decodes to. -/
def faultKindOf (w : Word) : Option FaultKind :=
  match decodeWord w with
  | .ok (.call _) => some .stackOverflow
  | .ok .ret => some .stackUnderflow
  | .ok (.sys _) => some .unknownInstruction
  | .ok _ => none
  | .error _ => some .unknownInstruction

theorem FaultCause.kind_eq {w : Word} {s : State} {k : FaultKind} (h : FaultCause w s k) : faultKindOf w = some k := by
  cases k with
  | stackOverflow =>
    obtain ⟨-, nnn, hc⟩ := h
    simp [faultKindOf, hc]
  | stackUnderflow =>
    obtain ⟨-, hc⟩ := h
    simp [faultKindOf, hc]
  | unknownInstruction =>
    rcases (unrecognized_iff w).mp h with ⟨nnn, hc⟩ | ⟨e, hc⟩ <;> simp [faultKindOf, hc]

/-- At most one fault is raised. -/
theorem FaultCause.unique {w : Word} {s : State} {k j : FaultKind} (hk : FaultCause w s k) (hj : FaultCause w s j) :
    k = j :=
  Option.some.inj (hk.kind_eq.symm.trans hj.kind_eq)

/-- All that a word's rule can answer: it keeps the control flags and no cause of a fault holds, or it takes the fault of a
cause that holds, recording the word itself. -/
theorem execWord_cases {w : Word} {s t : State} (h : execWord w s = .next t) :
    (t.halted = s.halted ∧ t.running = s.running ∧ t.fault = s.fault ∧ ∀ k, ¬ FaultCause w s k) ∨
      ∃ k, FaultCause w s k ∧ t = s.enterFault k w := by
  unfold execWord at h
  split at h
  case h_1 i hi =>
    obtain ⟨-, hw⟩ := encodes_of_decodeWord hi
    rcases exec_fault_cases h with ⟨hh, hr, hf, hno⟩ | ⟨nnn, rfl, rfl⟩ | ⟨nnn, rfl, hsp, rfl⟩ | ⟨rfl, hsp, rfl⟩
    · refine .inl ⟨hh, hr, hf, fun k hk => hno ?_⟩
      cases k with
      | stackOverflow =>
        obtain ⟨hsp, nnn, hc⟩ := hk
        exact .inr (.inl ⟨⟨nnn, Except.ok.inj (hi.symm.trans hc)⟩, hsp⟩)
      | stackUnderflow =>
        obtain ⟨hsp, hc⟩ := hk
        exact .inr (.inr ⟨Except.ok.inj (hi.symm.trans hc), hsp⟩)
      | unknownInstruction => exact .inl ((unrecognized_of_decodeWord hi).mp hk)
    · exact .inr ⟨.unknownInstruction, (unrecognized_of_decodeWord hi).mpr ⟨nnn, rfl⟩, by rw [hw]⟩
    · exact .inr ⟨.stackOverflow, ⟨hsp, nnn, hi⟩, by rw [hw]⟩
    · exact .inr ⟨.stackUnderflow, ⟨hsp, hi⟩, by rw [hw]⟩
  case h_2 e he =>
    cases h
    exact .inr ⟨.unknownInstruction, unrecognized_of_error he, rfl⟩

/-! ## The step -/

theorem step_of_halted {s : State} (h : s.halted = true) : step s = .next s :=
  if_pos h

theorem State.complete_of_halted {t : State} (h : t.halted = true) : t.complete = t :=
  if_pos h

theorem State.complete_of_not_halted {t : State} (h : t.halted = false) : t.complete = t.countCycle :=
  if_neg (by simp [h])

/-- All that a step of a machine that is not halted can answer: it completes, is counted, and no cause of a fault holds; or
it takes the fault of a cause that holds. -/
theorem step_outcomes {s t : State} (hh : s.halted = false) (h : step s = .next t) :
    (t.halted = false ∧ t.fault = s.fault ∧ t.cycleCount = s.cycleCount + 1 ∧ ∀ k, ¬ FaultCause s.fetchWord s k) ∨
      ∃ k, FaultCause s.fetchWord s k ∧ t = s.enterFault k s.fetchWord := by
  obtain ⟨u, hu, rfl⟩ := step_cases hh h
  rcases execWord_cases hu with ⟨hhalt, -, hfault, hno⟩ | ⟨k, hk, rfl⟩
  · rw [State.complete_of_not_halted (hhalt.trans hh)]
    exact .inl ⟨hhalt.trans hh, hfault, congrArg (· + 1) (execWord_cycleCount hu), hno⟩
  · exact .inr ⟨k, hk, State.complete_of_halted rfl⟩

/-- Every step answers a next state (60_exceptions R260). -/
theorem step_answers (s : State) : ∃ t, step s = .next t := by
  cases hh : s.halted with
  | true => exact ⟨s, step_of_halted hh⟩
  | false =>
    obtain ⟨u, hu⟩ := execWord_answers s.fetchWord s
    exact ⟨u.complete, step_of_execWord hh hu⟩

/-- A step in which the cause of a fault holds takes that fault (60_exceptions R263). -/
theorem step_of_faultCause {s : State} {k : FaultKind} (hh : s.halted = false) (hk : FaultCause s.fetchWord s k) :
    step s = .next (s.enterFault k s.fetchWord) := by
  obtain ⟨t, ht⟩ := step_answers s
  rcases step_outcomes hh ht with ⟨-, -, -, hno⟩ | ⟨j, hj, rfl⟩
  · exact absurd hk (hno k)
  · rw [ht, hj.unique hk]

/-- Settles O8: the two bytes at PC are the fetched word, so the step runs the rule of what they decode to, and the count is
what `complete` does. -/
theorem stepRunsDecodedInstruction : Obligations.StepRunsDecodedInstruction := by
  intro s i rest after hh hdec
  have hbytes : decode (s.memRead s.pc.toNat :: s.memRead (s.pc.toNat + 1) :: rest) =
      match decodeWord s.fetchWord with
      | .ok j => .ok (j, rest)
      | .error e => .error e := rfl
  rw [hbytes] at hdec
  cases hword : decodeWord s.fetchWord with
  | error e => rw [hword] at hdec; cases hdec
  | ok j =>
    rw [hword] at hdec; cases hdec
    obtain ⟨u, hu⟩ := exec_answers i s
    have hrule : execWord s.fetchWord s = .next u := by simp only [execWord, hword, hu]
    refine ⟨(encodes_of_decodeWord hword).1, rfl, ?_⟩
    rw [step_of_execWord hh hrule, hu]
    rfl

/-- Settles O9: an unrecognized word is the cause of its fault. -/
theorem unrecognizedWordFaults : Obligations.UnrecognizedWordFaults :=
  fun _ hh hu => step_of_faultCause (k := .unknownInstruction) hh hu

/-- The result of a step that ended not halted (40_execution_cycle R120). -/
theorem State.resultAfter_of_not_halted {t : State} (h : t.halted = false) : t.resultAfter = .success :=
  if_neg (by simp [h])

/-- The result of a step that took a fault is the failure of its kind (40_execution_cycle R120). -/
theorem State.resultAfter_enterFault (s : State) (k : FaultKind) (w : Word) :
    (s.enterFault k w).resultAfter = .failure k := rfl

/-- Settles O12: the two outcomes of a step, one for each value of the halted flag after it. -/
theorem completedStepsAreCounted : Obligations.CompletedStepsAreCounted := by
  intro s t hh hstep
  rw [State.stepOp_of_step hh hstep]
  rcases step_outcomes hh hstep with ⟨hrun, -, hcount, -⟩ | ⟨k, -, rfl⟩
  · rw [State.resultAfter_of_not_halted hrun]
    exact ⟨fun _ => ⟨hcount, rfl⟩, by simp [hrun]⟩
  · exact ⟨by simp, fun _ => ⟨rfl, ⟨k, s.pc, s.fetchWord⟩, rfl, rfl⟩⟩

/-- Settles O11: a step answers, so the host's step returns what its outcome gives, which is never `noMeaning`. -/
theorem stepAlwaysAnswers : Obligations.StepAlwaysAnswers := by
  intro s
  obtain ⟨t, ht⟩ := step_answers s
  refine ⟨⟨t, ht⟩, ?_⟩
  cases hh : s.halted with
  | true => rw [State.stepOp_of_halted hh]; simp
  | false =>
    rw [State.stepOp_of_step hh ht]
    rcases step_outcomes hh ht with ⟨hrun, -⟩ | ⟨k, -, rfl⟩
    · simp [State.resultAfter_of_not_halted hrun]
    · simp [State.resultAfter_enterFault]

/-- The cause of some fault holds exactly in the three cases of 60_exceptions R261. -/
theorem exists_faultCause (w : Word) (s : State) : (∃ k, FaultCause w s k) ↔
    ((∃ nnn, decodeWord w = .ok (.call nnn)) ∧ s.sp.val = 16) ∨ (decodeWord w = .ok .ret ∧ s.sp.val = 0) ∨
      unrecognized w = true := by
  constructor
  · rintro ⟨k, hk⟩
    cases k with
    | stackOverflow => exact .inl hk.symm
    | stackUnderflow => exact .inr (.inl hk.symm)
    | unknownInstruction => exact .inr (.inr hk)
  · rintro (h | h | h)
    · exact ⟨.stackOverflow, h.symm⟩
    · exact ⟨.stackUnderflow, h.symm⟩
    · exact ⟨.unknownInstruction, h⟩

/-- With one cause at hand, a kind is the recorded one exactly when it is the cause. -/
theorem FaultCause.eq_iff {w : Word} {s : State} {k : FaultKind} (hk : FaultCause w s k) (j : FaultKind) :
    k = j ↔ FaultCause w s j :=
  ⟨fun h => h ▸ hk, hk.unique⟩

/-- Settles O13: a step ends halted exactly when some cause holds, and the fault it takes is that of the only one. -/
theorem faultsArePrecise : Obligations.FaultsArePrecise := by
  intro s t hh hstep
  rw [← exists_faultCause]
  rcases step_outcomes hh hstep with ⟨hrun, -, -, hno⟩ | ⟨k, hk, rfl⟩
  · exact ⟨⟨by simp [hrun], fun ⟨k, hk⟩ => absurd hk (hno k)⟩, by simp [hrun]⟩
  · refine ⟨⟨fun _ => ⟨k, hk⟩, fun _ => rfl⟩, fun _ => ⟨k, rfl, ?_, ?_, hk.eq_iff _⟩⟩
    · exact (hk.eq_iff _).trans and_comm
    · exact (hk.eq_iff _).trans and_comm

end Sys2Proof.Machine
end

section
/-! Control transfer (41_control_flow R131 to R138): SYS, RET, CALL and JP V0 as updates of the record, and runs of CALLs. -/

namespace Sys2Proof.Machine

/-- A word plus a number is the word of the sum mod 2^16. -/
theorem word_add_ofNat (w : Word) (n : Nat) : w + BitVec.ofNat 16 n = BitVec.ofNat 16 (w.toNat + n) := by
  simp [BitVec.ofNat_add]

/-- The rule of SYS: the fault, with its own word (41_control_flow R131). -/
theorem exec_sys (nnn : Addr12) (s : State) :
    exec (.sys nnn) s = .next (s.enterFault .unknownInstruction (0x0#4 ++ nnn)) := rfl

/-- RET with an entry in use (41_control_flow R132). -/
theorem exec_ret_of_pos (s : State) (h : 0 < s.sp.val) : exec .ret s =
    .next { s with sp := ⟨s.sp.val - 1, by omega⟩, pc := s.stack[s.sp.val - 1]'(by omega) } := by
  rcases s.pop_cases with ⟨_, e⟩ | ⟨hsp, _⟩
  · simp only [exec, execRet, e]; rfl
  · omega

/-- RET with no entry in use (41_control_flow R132). -/
theorem exec_ret_of_zero (s : State) (h : s.sp.val = 0) :
    exec .ret s = .next (s.enterFault .stackUnderflow 0x00EE#16) := by
  rcases s.pop_cases with ⟨hsp, _⟩ | ⟨_, e⟩
  · omega
  · simp only [exec, execRet, e]; rfl

/-- CALL with a free entry (41_control_flow R134). -/
theorem exec_call_of_lt (nnn : Addr12) (s : State) (h : s.sp.val < 16) : exec (.call nnn) s =
    .next { s with stack := s.stack.set s.sp.val (s.pc + 2) h, sp := ⟨s.sp.val + 1, by omega⟩,
                   pc := BitVec.ofNat 16 nnn.toNat } := by
  rcases s.push_cases (s.pc + 2) with ⟨_, e⟩ | ⟨hsp, _⟩
  · simp only [exec, execCall, e, addrOperand_eq_ofNat]; rfl
  · omega

/-- CALL with all sixteen entries in use (41_control_flow R134). -/
theorem exec_call_of_full (nnn : Addr12) (s : State) (h : s.sp.val = 16) :
    exec (.call nnn) s = .next (s.enterFault .stackOverflow (0x2#4 ++ nnn)) := by
  rcases s.push_cases (s.pc + 2) with ⟨hsp, _⟩ | ⟨_, e⟩
  · omega
  · simp only [exec, execCall, e]; rfl

/-- The rule of JP V0 (41_control_flow R138). -/
theorem exec_jpV0 (nnn : Addr12) (s : State) :
    exec (.jpV0 nnn) s = .next (s.jumpTo (addrOperand nnn + byteOperand (s.readV 0x0#4))) := rfl

/-- A byte widened to 16 bits is its number as a word. -/
theorem byteOperand_eq_ofNat (b : Byte) : byteOperand b = BitVec.ofNat 16 b.toNat :=
  (BitVec.ofNat_toNat 16 b).symm

/-- Settles O14: SYS is the fault and nothing else. -/
theorem sysTakesUnknownInstruction : Obligations.SysTakesUnknownInstruction :=
  exec_sys

/-- Settles O15: the two answers of a pop. -/
theorem retPopsOrUnderflows : Obligations.RetPopsOrUnderflows :=
  fun s => ⟨exec_ret_of_pos s, exec_ret_of_zero s⟩

/-- Settles O17: the sum of the two operands, mod 2^16. -/
theorem jpV0AddsV0 : Obligations.JpV0AddsV0 := by
  intro nnn s
  rw [exec_jpV0, State.jumpTo_eq_update, addrOperand_eq_ofNat, byteOperand_eq_ofNat, BitVec.ofNat_add]

/-- Settles O18: the two answers of a push. -/
theorem callPushesOrOverflows : Obligations.CallPushesOrOverflows := by
  intro nnn s
  refine ⟨fun h => ?_, exec_call_of_full nnn s⟩
  rw [exec_call_of_lt nnn s h, show s.pc + 2 = BitVec.ofNat 16 (s.pc.toNat + 2) from word_add_ofNat s.pc 2]

/-- Settles O19: the RET finds the entry the CALL wrote, since SP is one above the CALL's. -/
theorem matchingRetResumesAfterCall : Obligations.MatchingRetResumesAfterCall := by
  intro nnn s u h
  refine ⟨_, exec_call_of_lt nnn s h, fun hsp hentry => ?_⟩
  have husp : u.sp.val = s.sp.val + 1 := congrArg Fin.val hsp
  have hret : u.stack[s.sp.val]'h = s.pc + 2 := by simpa [h] using hentry
  rw [exec_ret_of_pos u (by omega)]
  simp [husp, hret]

/-- A CALL with a free entry takes one and no fault. -/
theorem exec_call_deepens (nnn : Addr12) (s : State) (h : s.sp.val < 16) :
    ∃ u, exec (.call nnn) s = .next u ∧ u.sp.val = s.sp.val + 1 ∧ u.halted = s.halted :=
  ⟨_, exec_call_of_lt nnn s h, rfl, rfl⟩

/-- CALLs in a row with room for all of them: SP rises by their number, and no fault is taken. -/
theorem execAll_calls (targets : List Addr12) (s : State) (h : s.sp.val + targets.length ≤ 16) :
    ∃ t, execAll (targets.map Instr.call) s = .next t ∧ t.sp.val = s.sp.val + targets.length ∧ t.halted = s.halted := by
  induction targets generalizing s with
  | nil => exact ⟨s, rfl, rfl, rfl⟩
  | cons nnn rest ih =>
    rw [List.length_cons] at h
    obtain ⟨u, hu, husp, huhalt⟩ := exec_call_deepens nnn s (by omega)
    obtain ⟨t, ht, htsp, hthalt⟩ := ih u (by omega)
    refine ⟨t, ?_, ?_, hthalt.trans huhalt⟩
    · simp only [List.map_cons, execAll, hu, ht]
    · rw [htsp, husp, List.length_cons]; omega

/-- Settles O20: sixteen CALLs fill the stack, and then the push and, at SP = 0, the pop have no answer. -/
theorem sixteenNestedCalls : Obligations.SixteenNestedCalls := by
  refine ⟨fun s targets hsp hlen => ?_, fun s hsp => ⟨_, exec_ret_of_zero s hsp, rfl, rfl⟩⟩
  obtain ⟨t, ht, hfull, hhalt⟩ := execAll_calls targets s (by omega)
  exact ⟨t, ht, by omega, hhalt, fun nnn => ⟨_, exec_call_of_full nnn t (by omega), rfl, rfl⟩⟩

end Sys2Proof.Machine
end

section
/-! Key skips and the key wait (42_skips R160 to R164, 46_timers_keys R242). -/

namespace Sys2Proof.Machine

/-- The rule of SKP in terms of the shared skip (42_skips R160). -/
theorem exec_skp (x : Nibble) (s : State) : exec (.skp x) s = .next (s.skipIf (s.pressed (s.readV x))) := rfl

/-- The rule of SKNP in terms of the shared skip (42_skips R162). -/
theorem exec_sknp (x : Nibble) (s : State) : exec (.sknp x) s = .next (s.skipIf (!s.pressed (s.readV x))) := rfl

/-- An index below 16 names a latch (42_skips R164). -/
theorem State.pressed_of_lt (s : State) {b : Byte} (h : b.toNat < 16) : s.pressed b = s.key[b.toNat] :=
  dif_pos h

/-- An index of 16 or more names no latch (42_skips R164). -/
theorem State.pressed_of_ge (s : State) {b : Byte} (h : 16 ≤ b.toNat) : s.pressed b = false :=
  dif_neg (Nat.not_lt.mpr h)

/-- Settles O23: both skips test `pressed`, which is the latch below 16 and false from 16 on. -/
theorem keySkips : Obligations.KeySkips := by
  intro x s
  refine ⟨fun h => ?_, fun h => ?_⟩
  · rw [exec_skp, exec_sknp, s.pressed_of_lt h]
    cases s.key[(s.readV x).toNat] <;> exact ⟨rfl, rfl⟩
  · rw [exec_skp, exec_sknp, s.pressed_of_ge h]
    exact ⟨rfl, rfl⟩

/-- No key is pressed: no key is chosen (46_timers_keys R242). -/
theorem keySelect_of_none {table : KeyWaitTable} {keys : KeyVector} (h : ∀ k : Fin 16, keys.get k = false) :
    keySelect table keys = none := by
  rw [keySelect, (lowestKey_eq_none keys).mpr h]

/-- Some key is pressed: the table's choice, or the lowest pressed key (46_timers_keys R242). -/
theorem keySelect_of_pressed {table : KeyWaitTable} {keys : KeyVector} (h : ∃ k : Fin 16, keys.get k = true) :
    ∃ low, lowestKey keys = some low ∧ keySelect table keys = some ((table.lookup keys).getD low) := by
  obtain ⟨k, hk⟩ := h
  cases hlow : lowestKey keys with
  | none => simp [(lowestKey_eq_none keys).mp hlow k] at hk
  | some low => exact ⟨low, rfl, by rw [keySelect, hlow]⟩

/-- The key wait with no key chosen stays (46_timers_keys R242). -/
theorem exec_ldVxK_of_none {x : Nibble} {s : State} (h : keySelect s.params.keywait s.key = none) :
    exec (.ldVxK x) s = .next s := by
  simp only [exec, execLdVxK, h, State.stay_eq]

/-- The key wait with a key chosen is a register write and the base advance (46_timers_keys R242). -/
theorem exec_ldVxK_of_some {x : Nibble} {s : State} {k : Fin 16} (h : keySelect s.params.keywait s.key = some k) :
    exec (.ldVxK x) s = .next (s.writeV x (BitVec.ofNat 8 k.val)).advance := by
  simp only [exec, execLdVxK, h]

theorem ofNat_key_toNat (k : Fin 16) : (BitVec.ofNat 8 k.val).toNat = k.val :=
  Nat.mod_eq_of_lt (by omega)

/-- Settles O41: the two answers of the key choice; with the empty table it is the lowest pressed key. -/
theorem keyWait : Obligations.KeyWait := by
  intro x s
  refine ⟨fun h => exec_ldVxK_of_none (keySelect_of_none h), fun h => ?_⟩
  obtain ⟨low, hlow, hsel⟩ := keySelect_of_pressed (table := s.params.keywait) h
  refine ⟨_, exec_ldVxK_of_some hsel, ?_, State.advance_pc _, s.writeV_advance_onlyV x _, fun hempty k hk hlower => ?_⟩
  · rw [State.readV_writeV_advance_self, ofNat_key_toNat]
    exact Fin.isLt _
  · have hk' : low = k := Option.some.inj (hlow.symm.trans ((lowestKey_eq_some s.key k).mpr ⟨hk, hlower⟩))
    rw [State.readV_writeV_advance_self, ofNat_key_toNat, hempty, hk']
    rfl

end Sys2Proof.Machine
end

section
/-! Register arithmetic (43_alu R174 to R196): a result and its flag and then the base advance, with its frame; and each
operation of the 8 family as that pair. -/

namespace Sys2Proof.Machine

/-! ## A result and its flag -/

section Result

variable (s : State) (x : Nibble) (r f : Byte)

theorem State.readV_writeResult_advance_vf : (s.writeResult x r f).advance.readV vf = f := by
  rw [State.readV_advance, State.readV_writeResult, if_pos rfl]

theorem State.readV_writeResult_advance_self (h : x ≠ vf) : (s.writeResult x r f).advance.readV x = r := by
  rw [State.readV_advance, State.readV_writeResult, if_neg h, if_pos rfl]

/-- The frame of a result and its flag and the base advance: PC, the destination and VF alone. -/
theorem State.writeResult_advance_onlyV : OnlyV [x, vf] s (s.writeResult x r f).advance := by
  have hv : SameV [x, vf] s (s.writeResult x r f).advance := fun y hy => by
    have ⟨hx, hf⟩ : y ≠ x ∧ y ≠ vf := by simpa using hy
    rw [State.readV_advance, State.readV_writeResult, if_neg hf, if_neg hx]
  have hrest : SameRest s (s.writeResult x r f).advance := ⟨rfl, rfl, rfl, rfl, rfl, rfl, rfl, rfl, rfl, rfl⟩
  exact ⟨hv, rfl, fun _ => rfl, ⟨fun _ => rfl, rfl⟩, hrest, rfl⟩

end Result

/-- What a rule that writes a result, its flag and PC does: VF is the flag whatever the destination, the destination is the
result unless it is VF, and all else but PC stays (43_alu R192). -/
theorem outcome_of_writeResult {i : Instr} {s : State} {x : Nibble} {r f : Byte}
    (h : exec i s = .next (s.writeResult x r f).advance) :
    ∃ t, exec i s = .next t ∧ (x ≠ vf → t.readV x = r) ∧ t.readV vf = f ∧ t.pc = s.pc + 2 ∧ OnlyV [x, vf] s t :=
  ⟨_, h, s.readV_writeResult_advance_self x r f, s.readV_writeResult_advance_vf x r f, State.advance_pc _,
    s.writeResult_advance_onlyV x r f⟩

/-! ## The operations -/

section Operations

variable (x y : Nibble) (s : State)

/-- The rule of LD Vx, Vy: one register write, then the base advance (43_alu R174). -/
theorem exec_ldReg : exec (.ldReg x y) s = .next (s.writeV x (s.readV y)).advance := rfl

/-- OR (43_alu R176). -/
theorem exec_orReg :
    exec (.orReg x y) s = .next (s.writeResult x (s.readV x ||| s.readV y) 0).advance := rfl

/-- AND (43_alu R178). -/
theorem exec_andReg :
    exec (.andReg x y) s = .next (s.writeResult x (s.readV x &&& s.readV y) 0).advance := rfl

/-- XOR (43_alu R180). -/
theorem exec_xorReg :
    exec (.xorReg x y) s = .next (s.writeResult x (s.readV x ^^^ s.readV y) 0).advance := rfl

/-- ADD of two registers (43_alu R182). -/
theorem exec_addReg : exec (.addReg x y) s =
    .next (s.writeResult x (s.readV x + s.readV y) (carryFlag (s.readV x) (s.readV y))).advance := rfl

/-- SUB (43_alu R184). -/
theorem exec_sub : exec (.sub x y) s =
    .next (s.writeResult x (s.readV x - s.readV y) (notBorrowFlag (s.readV x) (s.readV y))).advance := rfl

/-- SHR (43_alu R186). -/
theorem exec_shr : exec (.shr x y) s =
    .next (s.writeResult x (s.shiftOperand x y >>> 1) (shiftedOutLow (s.shiftOperand x y))).advance := rfl

/-- SUBN (43_alu R188). -/
theorem exec_subn : exec (.subn x y) s =
    .next (s.writeResult x (s.readV y - s.readV x) (notBorrowFlag (s.readV y) (s.readV x))).advance := rfl

/-- SHL (43_alu R190). -/
theorem exec_shl : exec (.shl x y) s =
    .next (s.writeResult x (s.shiftOperand x y <<< 1) (shiftedOutHigh (s.shiftOperand x y))).advance := rfl

end Operations

/-- RND: a draw, one register write, then the base advance (43_alu R194). -/
theorem exec_rnd (x : Nibble) (nn : Byte) (s : State) :
    exec (.rnd x nn) s = .next (s.countDraw.writeV x (Config.rand s.draws &&& nn)).advance := rfl

/-! ## Numbers -/

theorem carryFlag_eq (a b : Byte) : carryFlag a b = if 255 < a.toNat + b.toNat then 1 else 0 := by
  simp [carryFlag, flagOf]

theorem notBorrowFlag_eq (a b : Byte) : notBorrowFlag a b = if a.toNat ≥ b.toNat then 1 else 0 := by
  simp [notBorrowFlag, flagOf]

/-- A difference of bytes as a number, mod 256 (43_alu R184, R188). -/
theorem byte_sub_toNat (a b : Byte) : (a - b).toNat = (256 + a.toNat - b.toNat) % 256 := by
  have := b.isLt
  rw [BitVec.toNat_sub]
  omega

theorem byte_shr_toNat (b : Byte) : (b >>> 1).toNat = b.toNat / 2 := by
  simp [Nat.shiftRight_eq_div_pow]

theorem byte_shl_toNat (b : Byte) : (b <<< 1).toNat = b.toNat * 2 % 256 := by
  simp [Nat.shiftLeft_eq]

theorem shiftedOutLow_toNat (b : Byte) : (shiftedOutLow b).toNat = b.toNat % 2 := by
  simp [shiftedOutLow]

theorem shiftedOutHigh_toNat (b : Byte) : (shiftedOutHigh b).toNat = b.toNat / 128 := by
  simp [shiftedOutHigh, Nat.shiftRight_eq_div_pow]

/-- The shifted byte by the parameter SHIFT_SOURCE (43_alu R186, R190). -/
theorem State.shiftOperand_eq (s : State) (x y : Nibble) :
    s.shiftOperand x y = if s.params.shiftSource = .vx then s.readV x else s.readV y := by
  unfold State.shiftOperand
  cases s.params.shiftSource <;> rfl

/-! ## The statements -/

/-- Settles O25: one register write; a register written with itself is as before. -/
theorem registerCopy : Obligations.RegisterCopy := by
  intro x y s
  have honly := s.writeV_advance_onlyV x (s.readV y)
  refine ⟨_, exec_ldReg x y s, s.readV_writeV_advance_self x _, State.advance_pc _, honly, ?_⟩
  rintro rfl
  obtain ⟨hv, hrest⟩ := honly
  refine ⟨fun z _ => ?_, hrest⟩
  by_cases hz : z = x
  · rw [hz, State.readV_writeV_advance_self]
  · exact hv z (by simpa using hz)

/-- A bitwise operation, in the order its statement has. -/
theorem outcome_of_bitwise {i : Instr} {s : State} {x : Nibble} {r : Byte}
    (h : exec i s = .next (s.writeResult x r 0).advance) :
    ∃ t, exec i s = .next t ∧ t.readV vf = 0 ∧ (x ≠ vf → t.readV x = r) ∧ t.pc = s.pc + 2 ∧ OnlyV [x, vf] s t := by
  obtain ⟨t, ht, hr, hf, hrest⟩ := outcome_of_writeResult h
  exact ⟨t, ht, hf, hr, hrest⟩

/-- Settles O26: the three operations write their result and then the flag 0. -/
theorem bitwiseOpsResetVF : Obligations.BitwiseOpsResetVF :=
  fun x y s => ⟨outcome_of_bitwise (exec_orReg x y s), outcome_of_bitwise (exec_andReg x y s),
    outcome_of_bitwise (exec_xorReg x y s)⟩

/-- Settles O27: the sum mod 256, and the carry of the exact sum. -/
theorem addSetsCarry : Obligations.AddSetsCarry := by
  intro x y s
  obtain ⟨t, ht, hr, hf, hrest⟩ := outcome_of_writeResult (exec_addReg x y s)
  refine ⟨t, ht, fun hx => ?_, ?_, hrest⟩
  · rw [hr hx, BitVec.toNat_add]
  · rw [hf, carryFlag_eq]

/-- A difference and its NOT-borrow, as numbers (43_alu R184, R188). -/
theorem outcome_of_difference {i : Instr} {s : State} {x : Nibble} {a b : Byte}
    (h : exec i s = .next (s.writeResult x (a - b) (notBorrowFlag a b)).advance) :
    ∃ t, exec i s = .next t ∧ (x ≠ vf → (t.readV x).toNat = (256 + a.toNat - b.toNat) % 256) ∧
      t.readV vf = (if a.toNat ≥ b.toNat then 1 else 0) ∧ t.pc = s.pc + 2 ∧ OnlyV [x, vf] s t := by
  obtain ⟨t, ht, hr, hf, hrest⟩ := outcome_of_writeResult h
  refine ⟨t, ht, fun hx => ?_, ?_, hrest⟩
  · rw [hr hx, byte_sub_toNat]
  · rw [hf, notBorrowFlag_eq]

/-- Settles O28: the two differences, the operands of one the other way round in the other. -/
theorem subtractionsSetNotBorrow : Obligations.SubtractionsSetNotBorrow :=
  fun x y s => ⟨outcome_of_difference (exec_sub x y s), outcome_of_difference (exec_subn x y s)⟩

/-- Settles O29: the shifted byte halved or doubled, and the bit shifted out. -/
theorem shiftsSetShiftedOutBit : Obligations.ShiftsSetShiftedOutBit := by
  rintro x y s src rfl
  rw [← s.shiftOperand_eq x y]
  constructor
  · obtain ⟨t, ht, hr, hf, hrest⟩ := outcome_of_writeResult (exec_shr x y s)
    refine ⟨t, ht, fun hx => ?_, ?_, hrest⟩
    · rw [hr hx, byte_shr_toNat]
    · rw [hf, shiftedOutLow_toNat]
  · obtain ⟨t, ht, hr, hf, hrest⟩ := outcome_of_writeResult (exec_shl x y s)
    refine ⟨t, ht, fun hx => ?_, ?_, hrest⟩
    · rw [hr hx, byte_shl_toNat]
    · rw [hf, shiftedOutHigh_toNat]

/-- A byte under a mask has no bit outside the mask. -/
theorem and_and_not_self (b m : Byte) : b &&& m &&& ~~~m = 0 := by
  rw [BitVec.and_assoc, BitVec.and_not_self]
  exact BitVec.and_zero

/-- Settles O30: the free byte under the mask, whatever it is, and the frame of a register write. -/
theorem randomByteUnderMask : Obligations.RandomByteUnderMask := by
  intro x nn s
  obtain ⟨hv, hi, hbytes, hdisplay, hrest, -⟩ := s.countDraw.writeV_advance_onlyV x (Config.rand s.draws &&& nn)
  have hx := s.countDraw.readV_writeV_advance_self x (Config.rand s.draws &&& nn)
  refine ⟨_, exec_rnd x nn s, hx, ?_, ?_, rfl, rfl, hv, hi, hbytes, hdisplay, hrest⟩
  · rw [hx, and_and_not_self]
  · rintro rfl
    exact hx.trans BitVec.and_zero

end Sys2Proof.Machine
end

section
/-! The index register and the memory transfers (44_index_memory R200 to R214): index loads as updates of the record, decimal
digits, and the two block transfers. -/

namespace Sys2Proof.Machine

/-! ## Index loads -/

/-- A write of I and the base advance as an update of the record. -/
theorem State.setI_advance_eq_update (s : State) (w : Word) : (s.setI w).advance = { s with i := w, pc := s.pc + 2 } := rfl

/-- The rule of LD I (44_index_memory R200). -/
theorem exec_ldI (nnn : Addr12) (s : State) : exec (.ldI nnn) s = .next (s.setI (addrOperand nnn)).advance := rfl

/-- The rule of ADD I (44_index_memory R202). -/
theorem exec_addI (x : Nibble) (s : State) :
    exec (.addI x) s = .next (s.setI (s.i + byteOperand (s.readV x))).advance := rfl

/-- The rule of LD F (44_index_memory R204). -/
theorem exec_ldF (x : Nibble) (s : State) : exec (.ldF x) s = .next (s.setI (glyphAddr (s.readV x))).advance := rfl

/-- The address of a glyph as a number (44_index_memory R204). -/
theorem glyphAddr_eq_ofNat (b : Byte) : glyphAddr b = BitVec.ofNat 16 (b.toNat % 16 * 5) := by
  have hlow : (b &&& 0x0F#8).toNat = b.toNat % 16 := by
    rw [BitVec.toNat_and]
    exact Nat.and_two_pow_sub_one_eq_mod b.toNat 4
  rw [glyphAddr, byteOperand_eq_ofNat, hlow, BitVec.ofNat_mul]
  rfl

/-- Settles O31: each is a write of I and the base advance, of the number the statement gives. -/
theorem indexLoads : Obligations.IndexLoads := by
  refine ⟨fun nnn s => ?_, fun x s => ?_, fun x s => ?_⟩
  · rw [exec_ldI, State.setI_advance_eq_update, addrOperand_eq_ofNat]
  · rw [exec_addI, State.setI_advance_eq_update, byteOperand_eq_ofNat, word_add_ofNat]
  · rw [exec_ldF, State.setI_advance_eq_update, glyphAddr_eq_ofNat]

/-! ## Decimal digits -/

/-- The rule of LD B (44_index_memory R208). -/
theorem exec_ldB (x : Nibble) (s : State) : exec (.ldB x) s = .next (s.storeDigits s.i (s.readV x)).advance := rfl

/-- The digit at each offset of the three (44_index_memory R208). -/
def digitAt (b : Byte) : Nat → Byte
  | 0 => decimalDigit b 100
  | 1 => decimalDigit b 10
  | _ => decimalDigit b 1

/-- The three digits stand at their offsets: the addresses are different even reduced. -/
theorem State.memRead_storeDigits_at (s : State) (i0 : Word) (b : Byte) {k : Nat} (hk : k < 3) :
    (s.storeDigits i0 b).memRead (indexAddr i0 k) = digitAt b k := by
  have hinj : ∀ j < 3, eff (indexAddr i0 k) = eff (indexAddr i0 j) ↔ k = j := fun j hj =>
    eff_add_inj (by omega) (by omega)
  rw [State.memRead_storeDigits]
  simp only [hinj 0 (by omega), hinj 1 (by omega), hinj 2 (by omega)]
  interval_cases k <;> rfl

theorem State.memRead_storeDigits_outside (s : State) (i0 : Word) (b : Byte) : SameBytesOutside i0 3 s (s.storeDigits i0 b) := by
  intro a h
  rw [State.memRead_storeDigits, if_neg (h 2 (by omega)), if_neg (h 1 (by omega)), if_neg (h 0 (by omega))]

/-- The three digits as numbers (44_index_memory R208). -/
theorem digitAt_toNat (b : Byte) : (digitAt b 0).toNat = b.toNat / 100 ∧ (digitAt b 1).toNat = b.toNat / 10 % 10 ∧
    (digitAt b 2).toNat = b.toNat % 10 := by
  have := b.isLt
  refine ⟨(decimalDigit_toNat b 100).trans (by omega), decimalDigit_toNat b 10, ?_⟩
  exact (decimalDigit_toNat b 1).trans (by omega)

/-- Settles O32: the digits at the three offsets, and the frame of a store. -/
theorem decimalDigitsStored : Obligations.DecimalDigitsStored := by
  intro x s
  obtain ⟨h0, h1, h2⟩ := digitAt_toNat (s.readV x)
  have hread : ∀ k < 3, (s.storeDigits s.i (s.readV x)).advance.memRead (indexAddr s.i k) = digitAt (s.readV x) k :=
    fun k hk => s.memRead_storeDigits_at s.i (s.readV x) hk
  refine ⟨_, exec_ldB x s, ?_, ?_, ?_, s.memRead_storeDigits_outside s.i _, rfl, fun _ _ => rfl, rfl, ⟨fun _ => rfl, rfl⟩,
    ⟨rfl, rfl, rfl, rfl, rfl, rfl, rfl, rfl, rfl, rfl⟩, rfl⟩
  · rw [hread 0 (by omega), h0]
  · rw [hread 1 (by omega), h1]
  · rw [hread 2 (by omega), h2]

/-! ## Blocks -/

/-- The rule of LD [I] (44_index_memory R210). -/
theorem exec_stRegs (x : Nibble) (s : State) :
    exec (.stRegs x) s = .next ((s.storeBlock s.i (blockLength x)).setI (indexAfterBlock s.i x)).advance := rfl

/-- The rule of LD Vx, [I] (44_index_memory R212). -/
theorem exec_ldRegs (x : Nibble) (s : State) :
    exec (.ldRegs x) s = .next ((s.loadBlock s.i (blockLength x)).setI (indexAfterBlock s.i x)).advance := rfl

theorem indexAfterBlock_eq_ofNat (i0 : Word) (x : Nibble) :
    indexAfterBlock i0 x = BitVec.ofNat 16 (i0.toNat + x.toNat + 1) :=
  word_add_ofNat i0 (x.toNat + 1)

theorem blockReg_of_toNat (k : Nibble) : blockReg k.toNat = k := by
  simp [blockReg]

theorem lt_blockLength (n : Nat) (x : Nibble) : n < blockLength x ↔ n ≤ x.toNat :=
  Nat.lt_succ_iff

/-- The state after LD [I] as an update of the record: memory, I and PC (44_index_memory R210). -/
def State.afterStore (s : State) (x : Nibble) : State :=
  { s with memory := (s.storeBlock s.i (blockLength x)).memory, i := indexAfterBlock s.i x, pc := s.pc + 2 }

theorem exec_stRegs_eq (x : Nibble) (s : State) : exec (.stRegs x) s = .next (s.afterStore x) := by
  rw [exec_stRegs, State.storeBlock_eq]; rfl

theorem State.memRead_afterStore (s : State) (x : Nibble) (a : Nat) :
    (s.afterStore x).memRead a = (s.storeBlock s.i (blockLength x)).memRead a :=
  State.memRead_congr (s := s.storeBlock s.i _) (t := s.afterStore x) rfl (s.storeBlock_params s.i _).symm a

/-- The state after LD Vx, [I] as an update of the record: V, I and PC (44_index_memory R212). -/
def State.afterLoad (s : State) (x : Nibble) : State :=
  { s with v := (s.loadBlock s.i (blockLength x)).v, i := indexAfterBlock s.i x, pc := s.pc + 2 }

theorem exec_ldRegs_eq (x : Nibble) (s : State) : exec (.ldRegs x) s = .next (s.afterLoad x) := by
  rw [exec_ldRegs, State.loadBlock_eq]; rfl

theorem State.readV_afterLoad (s : State) (x y : Nibble) :
    (s.afterLoad x).readV y = if y.toNat < blockLength x then s.memRead (indexAddr s.i y.toNat) else s.readV y :=
  s.readV_loadBlock s.i _ (blockLength_le x) y

/-- Settles O33: the block's bytes and the others from the laws of a block store, and the frame from the update. -/
theorem registerBlockStored : Obligations.RegisterBlockStored := by
  intro x s
  refine ⟨_, exec_stRegs_eq x s, fun k hk => ?_, fun a ha => ?_, indexAfterBlock_eq_ofNat s.i x, rfl, fun _ _ => rfl,
    ⟨fun _ => rfl, rfl⟩, ⟨rfl, rfl, rfl, rfl, rfl, rfl, rfl, rfl, rfl, rfl⟩, rfl⟩
  · rw [s.memRead_afterStore,
      s.memRead_storeBlock s.i _ _ (blockLength_le x) ((lt_blockLength _ x).mpr hk), blockReg_of_toNat]
  · exact (s.memRead_afterStore x a).trans (s.memRead_storeBlock_outside s.i _ a ha)

/-- Settles O34: the registers from the law of a block load, and the frame from the update. -/
theorem registerBlockLoaded : Obligations.RegisterBlockLoaded := by
  intro x s
  refine ⟨_, exec_ldRegs_eq x s, fun k hk => ?_, fun k hk => ?_, indexAfterBlock_eq_ofNat s.i x, rfl, fun _ => rfl,
    ⟨fun _ => rfl, rfl⟩, ⟨rfl, rfl, rfl, rfl, rfl, rfl, rfl, rfl, rfl, rfl⟩, rfl⟩
  · rw [s.readV_afterLoad, if_pos ((lt_blockLength _ x).mpr hk)]
  · rw [s.readV_afterLoad, if_neg (by rw [lt_blockLength]; omega)]

/-- Settles O35: the load reads, through the same I, the bytes the store left. -/
theorem blockStoreThenLoad : Obligations.BlockStoreThenLoad := by
  intro x s u
  obtain ⟨t, ht, hstored, -, hti, -⟩ := registerBlockStored x s
  refine ⟨t, ht, fun hbytes hui => ?_⟩
  obtain ⟨v, hv, hloaded, -, hvi, -⟩ := registerBlockLoaded x u
  refine ⟨v, hv, fun k hk => ?_, ?_⟩
  · rw [hloaded k hk, hui, hbytes, hstored k hk]
  · rw [hvi, hti, hui]

end Sys2Proof.Machine
end

section
/-! The display (45_display R220 to R226): CLS, and DRW in terms of the cells its sprite hits. -/

namespace Sys2Proof.Machine

/-- The rule of CLS (45_display R220). -/
theorem exec_cls (s : State) : exec .cls s = .next (s.setDisplay Display.clear).markRedraw.advance := rfl

/-- Settles O37: the cleared display, the dirty flag and PC are the only writes. -/
theorem clearScreen : Obligations.ClearScreen :=
  fun s => ⟨_, exec_cls s, Display.cell_clear, rfl, rfl, fun _ _ => rfl, rfl, fun _ => rfl,
    ⟨rfl, rfl, rfl, rfl, rfl, rfl, rfl, rfl, rfl, rfl⟩, rfl⟩

/-- The cells a set bit of the sprite falls on (45_display R222, R226). -/
def State.spriteHit (s : State) (x y n : Nibble) (p : Nat) : Prop :=
  rowsHit (s.readV x) (s.readV y) s.spriteRow n.toNat p

/-- The hit cells written out with the sprite's bytes and the wrapped coordinates. -/
theorem State.spriteHit_iff (s : State) (x y n : Nibble) (p : Nat) : s.spriteHit x y n p ↔
    ∃ row < n.toNat, ∃ col < 8, (s.memRead (indexAddr s.i row)).getLsbD (7 - col) = true ∧
      ((s.readV y).toNat + row) % 32 * 64 + ((s.readV x).toNat + col) % 64 = p := Iff.rfl

open Classical in
/-- Every cell after the sprite is drawn: inverted exactly when it is hit (45_display R222). -/
theorem State.drawSprite_cell (s : State) (x y n : Nibble) (p : Nat) :
    (s.drawSprite x y n).display.cell p = (s.display.cell p ^^ decide (s.spriteHit x y n p)) :=
  Canvas.drawRows_cell _ _ _ _ _ _ (by omega)

/-- The collision: some hit cell was on before (45_display R222). -/
theorem State.drawSprite_collided (s : State) (x y n : Nibble) :
    (s.drawSprite x y n).collided = true ↔ ∃ p, s.spriteHit x y n p ∧ s.display.cell p = true := by
  classical
  rw [State.drawSprite, Canvas.drawRows_collided _ _ _ _ _ (by omega)]
  simp only [Bool.false_or, decide_eq_true_eq]
  exact exists_congr fun _ => and_comm

/-- The state after DRW (45_display R222). -/
def State.afterDraw (s : State) (x y n : Nibble) : State :=
  (((s.setDisplay (s.drawSprite x y n).display).writeV vf (flagOf (s.drawSprite x y n).collided)).markRedraw).advance

/-- The rule of DRW (45_display R222). -/
theorem exec_drw (x y n : Nibble) (s : State) : exec (.drw x y n) s = .next (s.afterDraw x y n) := rfl

section AfterDraw

variable (s : State) (x y n : Nibble)

theorem State.afterDraw_cell_of_hit {p : Nat} (h : s.spriteHit x y n p) :
    (s.afterDraw x y n).display.cell p = !s.display.cell p :=
  (s.drawSprite_cell x y n p).trans (by simp [h])

theorem State.afterDraw_cell_of_not_hit {p : Nat} (h : ¬ s.spriteHit x y n p) :
    (s.afterDraw x y n).display.cell p = s.display.cell p :=
  (s.drawSprite_cell x y n p).trans (by simp [h])

theorem State.readV_afterDraw (z : Nibble) :
    (s.afterDraw x y n).readV z = if z = vf then flagOf (s.drawSprite x y n).collided else s.readV z :=
  State.readV_writeV _ _ _ _

/-- VF is 1 when some hit cell was on. -/
theorem State.afterDraw_vf_of_lit (h : ∃ p, s.spriteHit x y n p ∧ s.display.cell p = true) :
    (s.afterDraw x y n).readV vf = 1 := by
  rw [s.readV_afterDraw, if_pos rfl, (s.drawSprite_collided x y n).mpr h]; rfl

/-- VF is 0 when every hit cell was off. -/
theorem State.afterDraw_vf_of_unlit (h : ∀ p, s.spriteHit x y n p → s.display.cell p = false) :
    (s.afterDraw x y n).readV vf = 0 := by
  have hfree : (s.drawSprite x y n).collided = false := by
    rw [← Bool.not_eq_true, s.drawSprite_collided]
    rintro ⟨p, hp, hon⟩
    simp [h p hp] at hon
  rw [s.readV_afterDraw, if_pos rfl, hfree]; rfl

/-- With another place than VF, the sprite after the draw is the sprite before it: same bytes, same place. -/
theorem State.spriteHit_afterDraw (hx : x ≠ vf) (hy : y ≠ vf) :
    (s.afterDraw x y n).spriteHit x y n = s.spriteHit x y n := by
  have hvx : (s.afterDraw x y n).readV x = s.readV x := by rw [s.readV_afterDraw, if_neg hx]
  have hvy : (s.afterDraw x y n).readV y = s.readV y := by rw [s.readV_afterDraw, if_neg hy]
  have hrows : (s.afterDraw x y n).spriteRow = s.spriteRow := rfl
  unfold State.spriteHit
  rw [hvx, hvy, hrows]

end AfterDraw

/-- Settles O38: the hit cells are those of the statement, and the rest is the frame of the writes. -/
theorem drawXorsSprite : Obligations.DrawXorsSprite := by
  intro x y n s hit hhit
  obtain rfl : hit = s.spriteHit x y n := funext fun p => propext ((hhit p).trans (s.spriteHit_iff x y n p).symm)
  refine ⟨_, exec_drw x y n s, fun _ => s.afterDraw_cell_of_hit x y n, fun _ => s.afterDraw_cell_of_not_hit x y n,
    s.afterDraw_vf_of_lit x y n, s.afterDraw_vf_of_unlit x y n, rfl, rfl, fun z hz => ?_, rfl, fun _ => rfl,
    ⟨rfl, rfl, rfl, rfl, rfl, rfl, rfl, rfl, rfl, rfl⟩, rfl⟩
  rw [s.readV_afterDraw, if_neg (by simpa using hz)]

/-- Drawing at a place that the draw does not move inverts each hit cell twice (45_display R224). -/
theorem State.afterDraw_twice_cell (s : State) (x y n : Nibble) (hx : x ≠ vf) (hy : y ≠ vf) (p : Nat) :
    ((s.afterDraw x y n).afterDraw x y n).display.cell p = s.display.cell p := by
  have hsame := s.spriteHit_afterDraw x y n hx hy
  by_cases h : s.spriteHit x y n p
  · rw [State.afterDraw_cell_of_hit _ x y n (hsame ▸ h), s.afterDraw_cell_of_hit x y n h, Bool.not_not]
  · rw [State.afterDraw_cell_of_not_hit _ x y n (hsame ▸ h), s.afterDraw_cell_of_not_hit x y n h]

/-- Settles O39: each hit cell is inverted twice; cells that are off before are on for the second draw. -/
theorem drawingTwiceRestores : Obligations.DrawingTwiceRestores := by
  intro x y n s hx hy
  refine ⟨_, _, exec_drw x y n s, exec_drw x y n _, s.afterDraw_twice_cell x y n hx hy, fun hoff => ?_⟩
  have hunlit : ∀ p, s.spriteHit x y n p → s.display.cell p = false := by
    rintro p ⟨row, hrow, col, hcol, hbit, rfl⟩
    exact hoff row hrow col hcol hbit
  have hsame := s.spriteHit_afterDraw x y n hx hy
  refine ⟨s.afterDraw_vf_of_unlit x y n hunlit, fun hone => ?_, ?_⟩
  · by_contra hnone
    have hmiss : ∀ p, ¬ s.spriteHit x y n p := by
      rintro p ⟨row, hrow, col, hcol, hbit, -⟩
      exact hnone ⟨row, hrow, col, hcol, hbit⟩
    have hzero := State.afterDraw_vf_of_unlit _ x y n fun p hp => absurd (hsame ▸ hp) (hmiss p)
    rw [hzero] at hone
    cases hone
  · rintro ⟨row, hrow, col, hcol, hbit⟩
    have hhit : s.spriteHit x y n (spriteCell (s.readV x) (s.readV y) row col) := ⟨row, hrow, col, hcol, hbit, rfl⟩
    refine State.afterDraw_vf_of_lit _ x y n ⟨_, hsame ▸ hhit, ?_⟩
    rw [s.afterDraw_cell_of_hit x y n hhit, hunlit _ hhit]; rfl

end Sys2Proof.Machine
end

section
/-! The host's transactions (60_exceptions R280 to R303, 70_reset_and_hazards R311 to R315): when each is accepted and the
state after it. -/

namespace Sys2Proof.Machine

/-! ## Ticks -/

theorem State.tick_dt (s : State) : s.tick.dt.toNat = s.dt.toNat - 1 :=
  countDown_toNat s.dt

theorem State.tick_st (s : State) : s.tick.st.toNat = s.st.toNat - 1 :=
  countDown_toNat s.st

/-- Settles O42: by induction on the ticks, each of which writes the two timers alone and lowers both by 1 unless they are 0. -/
theorem ticksCountDownClamped : Obligations.TicksCountDownClamped := by
  intro n
  induction n with
  | zero => exact fun s => ⟨rfl, rfl, rfl⟩
  | succ n ih =>
    intro s
    obtain ⟨hdt, hst, hframe⟩ := ih s.tick
    rw [Function.iterate_succ_apply]
    refine ⟨?_, ?_, hframe⟩
    · rw [hdt, s.tick_dt, Nat.sub_sub, Nat.add_comm]
    · rw [hst, s.tick_st, Nat.sub_sub, Nat.add_comm]

/-! ## Keys, run flag, dirty flag -/

theorem State.setKey_of_lt (s : State) {k : Nat} (down : Bool) (h : k < 16) :
    s.setKey k down = some { s with key := s.key.set k down h } :=
  dif_pos h

theorem State.setKey_of_ge (s : State) {k : Nat} (down : Bool) (h : 16 ≤ k) : s.setKey k down = none :=
  dif_neg (Nat.not_lt.mpr h)

/-- All that an accepted key event can do. -/
theorem State.setKey_eq_some {s t : State} {k : Nat} {down : Bool} (h : s.setKey k down = some t) :
    ∃ hk : k < 16, t = { s with key := s.key.set k down hk } := by
  rcases Nat.lt_or_ge k 16 with hk | hk
  · exact ⟨hk, Option.some.inj (h.symm.trans (s.setKey_of_lt down hk))⟩
  · cases h.symm.trans (s.setKey_of_ge down hk)

/-- Settles O43: a key event is accepted exactly below 16. -/
theorem keyEventsSetLatches : Obligations.KeyEventsSetLatches :=
  fun s _ =>
    ⟨fun h => ⟨congrArg s.accept (s.setKey_of_lt true h), congrArg s.accept (s.setKey_of_lt false h)⟩,
      fun h => ⟨congrArg s.accept (s.setKey_of_ge true h), congrArg s.accept (s.setKey_of_ge false h)⟩⟩

theorem State.start_of_not_halted {s : State} (h : s.halted = false) : s.start = some { s with running := true } :=
  if_neg (by simp [h])

theorem State.start_of_halted {s : State} (h : s.halted = true) : s.start = none :=
  if_pos h

/-- All that an accepted start can do. -/
theorem State.start_eq_some {s t : State} (h : s.start = some t) : s.halted = false ∧ t = { s with running := true } := by
  rcases Bool.eq_false_or_eq_true s.halted with hh | hh
  · cases h.symm.trans (State.start_of_halted hh)
  · exact ⟨hh, Option.some.inj (h.symm.trans (State.start_of_not_halted hh))⟩

/-- Settles O44: start is accepted exactly when the machine is not halted; the others have one answer. -/
theorem runFlagAndDirtyFlag : Obligations.RunFlagAndDirtyFlag :=
  fun s => ⟨rfl, fun h => congrArg s.accept (State.start_of_not_halted h),
    fun h => congrArg s.accept (State.start_of_halted h), rfl, rfl⟩

/-! ## Debug writes -/

theorem State.writeMemory_of_lt (s : State) {a v : Nat} (ha : a < 4096) (hv : v < 256) :
    s.writeMemory a v = some (s.setByte a (BitVec.ofNat 8 v)) :=
  if_pos ⟨ha, hv⟩

theorem State.writeMemory_of_ge (s : State) {a v : Nat} (h : 4096 ≤ a ∨ 256 ≤ v) : s.writeMemory a v = none :=
  if_neg fun ⟨(_ : a < 4096), _⟩ => by omega

theorem State.pokeRegister_of_lt (s : State) {i v : Nat} (hi : i < 16) (hv : v < 256) :
    s.pokeRegister i v = some (s.writeV (BitVec.ofNat 4 i) (BitVec.ofNat 8 v)) :=
  if_pos ⟨hi, hv⟩

theorem State.pokeRegister_of_ge (s : State) {i v : Nat} (h : 16 ≤ i ∨ 256 ≤ v) : s.pokeRegister i v = none :=
  if_neg fun _ => by omega

/-- All that an accepted write_memory can do. -/
theorem State.writeMemory_eq_some {s t : State} {a v : Nat} (h : s.writeMemory a v = some t) :
    a < 4096 ∧ v < 256 ∧ t = s.setByte a (BitVec.ofNat 8 v) := by
  by_cases hr : a < 4096 ∧ v < 256
  · obtain ⟨ha, hv⟩ := hr
    exact ⟨ha, hv, Option.some.inj (h.symm.trans (s.writeMemory_of_lt ha hv))⟩
  · cases h.symm.trans (s.writeMemory_of_ge (a := a) (v := v) (by omega))

/-- All that an accepted poke_register can do. -/
theorem State.pokeRegister_eq_some {s t : State} {i v : Nat} (h : s.pokeRegister i v = some t) :
    i < 16 ∧ v < 256 ∧ t = s.writeV (BitVec.ofNat 4 i) (BitVec.ofNat 8 v) := by
  by_cases hr : i < 16 ∧ v < 256
  · obtain ⟨hi, hv⟩ := hr
    exact ⟨hi, hv, Option.some.inj (h.symm.trans (s.pokeRegister_of_lt hi hv))⟩
  · cases h.symm.trans (s.pokeRegister_of_ge (i := i) (v := v) (by omega))

theorem ofNat_byte_toNat {v : Nat} (h : v < 256) : (BitVec.ofNat 8 v).toNat = v :=
  Nat.mod_eq_of_lt h

/-- Settles O45: inside the ranges each is one write, and outside them both are refused. -/
theorem debugWrites : Obligations.DebugWrites := by
  intro s a v
  refine ⟨fun ha hv => ?_, fun h => congrArg s.accept (s.writeMemory_of_ge h), fun ha hv => ?_,
    fun h => congrArg s.accept (s.pokeRegister_of_ge h)⟩
  · refine ⟨_, congrArg s.accept (s.writeMemory_of_lt ha hv), ?_, fun b hb => ?_, rfl⟩
    · rw [State.byteAt_setByte, if_pos rfl, ofNat_byte_toNat hv]
    · rw [State.byteAt_setByte, if_neg hb]
  · refine ⟨_, congrArg s.accept (s.pokeRegister_of_lt ha hv), ?_, fun y hy => ?_, rfl⟩
    · rw [State.readV_writeV, if_pos rfl, ofNat_byte_toNat hv]
    · rw [State.readV_writeV, if_neg (by simpa using hy)]

/-! ## Load -/

theorem State.load_of_le (s : State) {image : List Byte} (h : image.length ≤ 3584) :
    s.load image = some (s.loadBytes 0x200 image) :=
  if_pos h

theorem State.load_of_gt (s : State) {image : List Byte} (h : 3584 < image.length) : s.load image = none :=
  if_neg (Nat.not_le.mpr h)

/-- All that an accepted load can do. -/
theorem State.load_eq_some {s t : State} {image : List Byte} (h : s.load image = some t) :
    image.length ≤ 3584 ∧ t = s.loadBytes 0x200 image := by
  rcases Nat.lt_or_ge 3584 image.length with hl | hl
  · cases h.symm.trans (s.load_of_gt hl)
  · exact ⟨hl, Option.some.inj (h.symm.trans (s.load_of_le hl))⟩

/-- A byte of the image after a load (70_reset_and_hazards R314). -/
theorem State.byteAt_loadBytes_image (s : State) {image : List Byte} {k : Nat} {b : Byte} (h : image[k]? = some b) :
    (s.loadBytes 0x200 image).byteAt (0x200 + k) = b := by
  rw [State.byteAt_loadBytes, if_pos (Nat.le_add_right _ _), Nat.add_sub_cancel_left, h]; rfl

/-- A byte outside the image after a load (70_reset_and_hazards R314). -/
theorem State.byteAt_loadBytes_outside (s : State) {image : List Byte} {a : Nat}
    (h : a < 0x200 ∨ 0x200 + image.length ≤ a) : (s.loadBytes 0x200 image).byteAt a = s.byteAt a := by
  rw [State.byteAt_loadBytes]
  split_ifs with ha
  · rw [List.getElem?_eq_none (by omega)]; rfl
  · rfl

/-- Settles O46: the bytes of the image and the others from the law of loading bytes, which changes memory alone. -/
theorem loadCopiesImage : Obligations.LoadCopiesImage :=
  fun s image =>
    ⟨fun h => ⟨_, congrArg s.accept (s.load_of_le h), fun _ _ => s.byteAt_loadBytes_image,
      fun _ => s.byteAt_loadBytes_outside, s.loadBytes_eq 0x200 image⟩,
      fun h => congrArg s.accept (s.load_of_gt h)⟩

/-! ## Stored bytes and the fetch -/

/-- A byte that stands at the reduced address of the high or of the low byte of the next word is that byte of the word
(20_memory R64, R73). -/
theorem State.fetchWord_of_byteAt {t : State} {a : Nat} {b : Byte} (h : t.byteAt a = b) :
    (a = eff t.pc.toNat → t.fetchWord.extractLsb' 8 8 = b) ∧
      (a = eff (t.pc.toNat + 1) → t.fetchWord.extractLsb' 0 8 = b) := by
  constructor
  · rintro rfl; exact t.fetchWord_high.trans h
  · rintro rfl; exact t.fetchWord_low.trans h

/-- The same of a byte as a number. -/
theorem State.fetchWord_toNat_of_byteAt {t : State} {a n : Nat} (h : (t.byteAt a).toNat = n) :
    (a = eff t.pc.toNat → (t.fetchWord.extractLsb' 8 8).toNat = n) ∧
      (a = eff (t.pc.toNat + 1) → (t.fetchWord.extractLsb' 0 8).toNat = n) := by
  obtain ⟨hhigh, hlow⟩ := State.fetchWord_of_byteAt (t := t) (a := a) rfl
  exact ⟨fun ha => by rw [hhigh ha, h], fun ha => by rw [hlow ha, h]⟩

theorem State.accept_eq_accepted {s t : State} {o : Option State} : s.accept o = (t, .accepted) ↔ o = some t := by
  cases o <;> simp [State.accept]

/-- An accepted write stored its value (60_exceptions R298). -/
theorem byteAt_of_writeMemory_accepted {a v : Nat} {s t : State}
    (h : transact (.writeMemory a v) s = (t, .accepted)) : (t.byteAt a).toNat = v := by
  obtain ⟨-, hv, rfl⟩ := State.writeMemory_eq_some (State.accept_eq_accepted.mp h)
  rw [State.byteAt_setByte, if_pos rfl, ofNat_byte_toNat hv]

/-- An accepted load stored its image (70_reset_and_hazards R314). -/
theorem byteAt_of_load_accepted {image : List Byte} {k : Nat} {b : Byte} {s t : State}
    (h : transact (.load image) s = (t, .accepted)) (hb : image[k]? = some b) : t.byteAt (0x200 + k) = b := by
  obtain ⟨-, rfl⟩ := State.load_eq_some (State.accept_eq_accepted.mp h)
  exact s.byteAt_loadBytes_image hb

/-- Settles O36: each of the four leaves its byte in memory, and the fetch reads memory. -/
theorem storedBytesAreFetched : Obligations.StoredBytesAreFetched := by
  refine ⟨fun x k s t h hk => ?_, fun x s t k digit h hdigit => ?_, fun a v s t h => ?_, fun image k b s t h hb => ?_⟩
  · obtain ⟨u, hu, hstored, -⟩ := registerBlockStored x s
    obtain rfl := next_unique hu h
    exact State.fetchWord_of_byteAt (hstored k hk)
  · obtain ⟨u, hu, h0, h1, h2, -⟩ := decimalDigitsStored x s
    obtain rfl := next_unique hu h
    simp only [List.mem_cons, Prod.mk.injEq, List.not_mem_nil, or_false] at hdigit
    rcases hdigit with ⟨rfl, rfl⟩ | ⟨rfl, rfl⟩ | ⟨rfl, rfl⟩
    · exact State.fetchWord_toNat_of_byteAt h0
    · exact State.fetchWord_toNat_of_byteAt h1
    · exact State.fetchWord_toNat_of_byteAt h2
  · exact State.fetchWord_toNat_of_byteAt (byteAt_of_writeMemory_accepted h)
  · exact State.fetchWord_of_byteAt (byteAt_of_load_accepted h hb)

/-! ## Reset -/

/-- Memory with nothing listed holds the glyphs at 0x000 to 0x04F (10_state R33, R38). -/
theorem initialByte_font (font : Font) (g : Fin 16) (r : Fin 5) :
    initialByte font (5 * g.val + r.val) = (font.get g).get r := by
  have hlt : 5 * g.val + r.val < 80 := by omega
  have hg : (5 * g.val + r.val) / 5 = g.val := by omega
  have hr : (5 * g.val + r.val) % 5 = r.val := by omega
  simp only [initialByte, hlt, dif_pos, glyphByte, hg, hr]

/-- Memory with nothing listed holds zeros from 0x050 on (10_state R38). -/
theorem initialByte_above (font : Font) {a : Nat} (h : 0x50 ≤ a) : initialByte font a = 0 :=
  dif_neg (Nat.not_lt.mpr h)

/-- The fields of the spec's state at their initial values, but for memory (10_state R38). -/
def InitialFields (t : State) : Prop :=
  (∀ p, t.display.cell p = false) ∧ t.redrawPending = false ∧ (∀ x, t.readV x = 0) ∧ t.i = 0 ∧ t.pc = 0x200 ∧
    (∀ j : Fin 16, t.stack.get j = 0) ∧ t.sp = 0 ∧ t.dt = 0 ∧ t.st = 0 ∧ (∀ k : Fin 16, t.key.get k = false) ∧
    t.running = false ∧ t.halted = false ∧ t.cycleCount = 0 ∧ t.fault = none

theorem reset_initialFields : InitialFields State.reset :=
  ⟨Display.cell_clear, rfl, fun x => by simp [State.reset, State.readV], rfl, rfl,
    fun j => by simp [State.reset], rfl, rfl, rfl, fun k => by simp [State.reset], rfl, rfl, rfl, rfl⟩

/-- Settles O47: reset lists no byte and keeps the font, and its other fields are those of the initialized state. -/
theorem resetReturnsToInitial : Obligations.ResetReturnsToInitial := by
  intro s
  obtain hfields : InitialFields s.hardReset := reset_initialFields
  exact ⟨s.hardReset, rfl, initialByte_font s.params.font, fun _ => initialByte_above s.params.font, hfields⟩

/-- The initialized state fetches 0x0000 at 0x200 (95_test_vectors CF1). -/
theorem reset_fetchWord : State.reset.fetchWord = 0x0000#16 := by decide

/-- Settles O48: the fields as for reset, and the first step by the fault of the word it fetches. -/
theorem firstStepAfterReset : Obligations.FirstStepAfterReset := by
  obtain ⟨hcells, hdirty, hv, hi, hpc, hstack, hsp, hdt, hst, hkey, hrun, hhalt, hcount, hfault⟩ := reset_initialFields
  have hcause : FaultCause State.reset.fetchWord State.reset .unknownInstruction := by
    rw [reset_fetchWord]; exact rfl
  refine ⟨initialByte_font _, fun _ => initialByte_above _, hcells, hdirty, hv, hi, hpc, hstack, hsp, hdt, hst, hkey, hrun,
    hhalt, hcount, hfault, ?_⟩
  rw [step_of_faultCause hhalt hcause, reset_fetchWord]
  rfl

/-! ## Views -/

/-- A cell past the last is false (60_exceptions R301). -/
theorem Display.cell_of_ge (d : Display) {p : Nat} (h : 2048 ≤ p) : d.cell p = false := by
  rw [Display.cell, Vector.getElem?_eq_none (by omega)]; simp

/-- A view answers its value and changes nothing (60_exceptions R299). -/
theorem transact_view (q : View) (s : State) : transact (.view q) s = (s, .value (s.view q)) := rfl

/-- Settles O49: the value of each view, in range and out of it. -/
theorem queriesAreReadOnly : Obligations.QueriesAreReadOnly := by
  refine ⟨fun _ _ => rfl, fun _ _ => rfl, fun s n => ?_,
    fun _ => ⟨rfl, rfl, rfl, rfl, rfl, rfl, rfl, rfl, rfl, rfl⟩⟩
  simp only [transact_view, State.view]
  refine ⟨fun h => by rw [if_pos h], fun h => by rw [if_neg (Nat.not_lt.mpr h)], fun _ => trivial,
    fun h => by rw [Display.cell_of_ge _ h], fun h => by rw [if_pos h], fun h => by rw [if_neg (Nat.not_lt.mpr h)],
    fun h => ⟨by rw [if_pos h], ?_⟩, fun h => by rw [if_neg (Nat.not_lt.mpr h)]⟩
  have hn : n < 16 := by omega
  simp [hn]

/-! ## Several steps -/

theorem State.stepN_of_success {s t : State} (h : s.stepOp = (t, .success)) (count : Nat) :
    s.stepN (count + 1) = ((t.stepN count).1, (t.stepN count).2 + 1) := by
  simp only [State.stepN, h]

theorem State.stepN_of_halted {s : State} (h : s.halted = true) (count : Nat) : s.stepN count = (s, 0) := by
  cases count with
  | zero => rfl
  | succ count => simp only [State.stepN, State.stepOp_of_halted h]

theorem State.stepN_of_failure {s t : State} {k : FaultKind} (h : s.stepOp = (t, .failure k)) (count : Nat) :
    s.stepN (count + 1) = (t, 0) := by
  simp only [State.stepN, h]

/-- Running the core from a halted state changes nothing (40_execution_cycle R110). -/
theorem run_of_halted {s : State} (h : s.halted = true) (count : Nat) :
    Host.Core.run Sys2Proof.core count s = .next s := by
  induction count with
  | zero => rfl
  | succ count ih => rw [run_succ count (step_of_halted h), ih]

/-- What a host's run of several steps answers, by its state and its number of successes (40_execution_cycle R121). -/
def StepNOutcome (count : Nat) (s : State) (r : State × Nat) : Prop :=
  r.2 ≤ count ∧ (r.2 < count → r.1.halted = true) ∧ r.1.cycleCount = s.cycleCount + BitVec.ofNat 64 r.2 ∧
    (s.halted = true → r = (s, 0)) ∧ Host.Core.run Sys2Proof.core count s = .next r.1

/-- Steps of a halted machine: none succeeds. -/
theorem stepNOutcome_of_halted {s : State} (h : s.halted = true) (count : Nat) : StepNOutcome count s (s, 0) :=
  ⟨Nat.zero_le _, fun _ => h, by simp, fun _ => rfl, run_of_halted h count⟩

/-- A step that takes a fault ends the run: none succeeds. -/
theorem stepNOutcome_of_fault {s t : State} (hh : s.halted = false) (hstep : step s = .next t) (ht : t.halted = true)
    (hcount : t.cycleCount = s.cycleCount) (count : Nat) : StepNOutcome (count + 1) s (t, 0) :=
  ⟨Nat.zero_le _, fun _ => ht, by simp [hcount], by simp [hh], (run_succ count hstep).trans (run_of_halted ht count)⟩

/-- A step that completes adds one success to the run after it. -/
theorem stepNOutcome_of_success {s t : State} (hh : s.halted = false) (hstep : step s = .next t)
    (hcount : t.cycleCount = s.cycleCount + 1) {count : Nat} {r : State × Nat} (hr : StepNOutcome count t r) :
    StepNOutcome (count + 1) s (r.1, r.2 + 1) := by
  obtain ⟨hle, hearly, hcycles, -, hrun⟩ := hr
  refine ⟨Nat.succ_le_succ hle, fun h => hearly (Nat.lt_of_succ_lt_succ h), ?_, by simp [hh],
    (run_succ count hstep).trans hrun⟩
  rw [hcycles, hcount, BitVec.ofNat_add, BitVec.add_assoc, BitVec.add_comm (BitVec.ofNat 64 r.2)]
  rfl

/-- Settles O51: by induction on the count, over the outcomes of the first step. -/
theorem stepNCountsSuccesses : Obligations.StepNCountsSuccesses := by
  intro count
  induction count with
  | zero => exact fun s => ⟨Nat.le_refl _, by simp [State.stepN], by simp [State.stepN], fun _ => rfl, rfl⟩
  | succ count ih =>
    intro s
    change StepNOutcome (count + 1) s (s.stepN (count + 1))
    cases hh : s.halted with
    | true =>
      rw [State.stepN_of_halted hh]
      exact stepNOutcome_of_halted hh _
    | false =>
      obtain ⟨t, hstep⟩ := step_answers s
      have hop := State.stepOp_of_step hh hstep
      rcases step_outcomes hh hstep with ⟨hrun, -, hcount, -⟩ | ⟨k, -, rfl⟩
      · rw [State.resultAfter_of_not_halted hrun] at hop
        rw [State.stepN_of_success hop]
        exact stepNOutcome_of_success hh hstep hcount (ih t)
      · rw [State.stepN_of_failure hop]
        exact stepNOutcome_of_fault hh hstep rfl rfl count

end Sys2Proof.Machine
end

section
/-! Noninterference (10_state R34, 40_execution_cycle R110, 60_exceptions R270): no rule and no step reads `cycle_count`,
`running` or `redraw_pending`, so changing them before it changes nothing else after it. -/

namespace Sys2Proof.Machine

/-- The state with other values of the three host-only fields. -/
def State.withHostOnly (s : State) (c : BitVec 64) (r d : Bool) : State :=
  { s with cycleCount := c, running := r, redrawPending := d }

section Updates

variable (s : State) (c : BitVec 64) (r d : Bool)

theorem State.skipIf_withHostOnly (b : Bool) :
    (s.withHostOnly c r d).skipIf b = (s.skipIf b).withHostOnly c r d := by
  cases b <;> rfl

theorem State.storeBlock_withHostOnly (i0 : Word) (k : Nat) :
    (s.withHostOnly c r d).storeBlock i0 k = (s.storeBlock i0 k).withHostOnly c r d := by
  induction k with
  | zero => rfl
  | succ k ih => rw [State.storeBlock, ih]; rfl

theorem State.loadBlock_withHostOnly (i0 : Word) (k : Nat) :
    (s.withHostOnly c r d).loadBlock i0 k = (s.loadBlock i0 k).withHostOnly c r d := by
  induction k with
  | zero => rfl
  | succ k ih => rw [State.loadBlock, ih]; rfl

theorem State.push_withHostOnly (ret : Word) :
    (s.withHostOnly c r d).push ret = (s.push ret).map (·.withHostOnly c r d) := by
  unfold State.push State.withHostOnly
  split <;> rfl

theorem State.pop_withHostOnly :
    (s.withHostOnly c r d).pop = s.pop.map fun p => (p.1, p.2.withHostOnly c r d) := by
  unfold State.pop State.withHostOnly
  split <;> rfl

end Updates

/-- The two states answer next states that differ in host-only fields alone: the counter given is kept, and the dirty flag
is the same after if it was before. -/
def SameButHostOnly (c : BitVec 64) (d : Bool) (s t : State) (o : Result State) : Prop :=
  ∃ r' d', o = .next (t.withHostOnly c r' d') ∧ (d = s.redrawPending → d' = t.redrawPending)

/-- An outcome that carries the host-only fields along. -/
theorem SameButHostOnly.carried {c : BitVec 64} {r d : Bool} {s t : State} {o : Result State}
    (ho : o = .next (t.withHostOnly c r d)) (ht : t.redrawPending = s.redrawPending) : SameButHostOnly c d s t o :=
  ⟨r, d, ho, fun hd => hd.trans ht.symm⟩

/-- A skip carries the host-only fields along. -/
theorem SameButHostOnly.skipIf (c : BitVec 64) (r d : Bool) (s : State) (b : Bool) :
    SameButHostOnly c d s (s.skipIf b) (.next ((s.withHostOnly c r d).skipIf b)) :=
  .carried (congrArg _ (s.skipIf_withHostOnly c r d b)) (s.skipIf_redrawPending b)

/-- A fault stops both machines. -/
theorem SameButHostOnly.enterFault (c : BitVec 64) (r d : Bool) (s : State) (k : FaultKind) (w : Word) :
    SameButHostOnly c d s (s.enterFault k w) (.next ((s.withHostOnly c r d).enterFault k w)) :=
  ⟨false, d, rfl, id⟩

/-- A rule reads none of the host-only fields: CLS and DRW mark the display for redraw in both states, a fault stops both,
and every other rule carries the fields along. -/
theorem exec_withHostOnly {i : Instr} {s t : State} (h : exec i s = .next t) (c : BitVec 64) (r d : Bool) :
    SameButHostOnly c d s t (exec i (s.withHostOnly c r d)) := by
  cases i
  case cls | drw => cases h; exact ⟨r, true, rfl, fun _ => rfl⟩
  case sys nnn => cases h; exact .enterFault c r d s _ _
  case ret =>
    rcases s.pop_cases with ⟨_, e⟩ | ⟨_, e⟩ <;> simp only [exec, execRet, State.pop_withHostOnly, e] at h ⊢ <;> cases h
    · exact .carried rfl rfl
    · exact .enterFault c r d s _ _
  case call nnn =>
    have hpush := s.push_withHostOnly c r d (s.pc + 2)
    change SameButHostOnly c d s t (match (s.withHostOnly c r d).push (s.pc + 2) with
      | some u => .next (u.jumpTo (addrOperand nnn))
      | none => .next ((s.withHostOnly c r d).enterFault .stackOverflow (encode (.call nnn))))
    rcases s.push_cases (s.pc + 2) with ⟨_, e⟩ | ⟨_, e⟩ <;> simp only [exec, execCall, hpush, e] at h ⊢ <;> cases h
    · exact .carried rfl rfl
    · exact .enterFault c r d s _ _
  case ldVxK x =>
    cases hsel : keySelect s.params.keywait s.key with
    | none =>
      obtain rfl := next_unique (exec_ldVxK_of_none hsel) h
      exact .carried (exec_ldVxK_of_none hsel) rfl
    | some k =>
      obtain rfl := next_unique (exec_ldVxK_of_some hsel) h
      exact .carried (exec_ldVxK_of_some hsel) rfl
  case stRegs x =>
    obtain rfl := next_unique (exec_stRegs_eq x s) h
    refine .carried (r := r) ?_ rfl
    rw [exec_stRegs_eq, State.afterStore, State.storeBlock_withHostOnly]; rfl
  case ldRegs x =>
    obtain rfl := next_unique (exec_ldRegs_eq x s) h
    refine .carried (r := r) ?_ rfl
    rw [exec_ldRegs_eq, State.afterLoad, State.loadBlock_withHostOnly]; rfl
  case seImm | sneImm | seReg | sneReg | skp | sknp => cases h; exact .skipIf c r d s _
  all_goals cases h; exact .carried rfl rfl

theorem execWord_withHostOnly {w : Word} {s t : State} (h : execWord w s = .next t) (c : BitVec 64) (r d : Bool) :
    SameButHostOnly c d s t (execWord w (s.withHostOnly c r d)) := by
  unfold execWord at h ⊢
  cases hw : decodeWord w with
  | ok i => rw [hw] at h; exact exec_withHostOnly h c r d
  | error e => rw [hw] at h; cases h; exact .enterFault c r d s _ _

/-- A step reads none of the host-only fields. -/
theorem step_withHostOnly {s t : State} (h : step s = .next t) (c : BitVec 64) (r d : Bool) :
    ∃ c' r' d', step (s.withHostOnly c r d) = .next (t.withHostOnly c' r' d') ∧
      (c = s.cycleCount → c' = t.cycleCount) ∧ (d = s.redrawPending → d' = t.redrawPending) := by
  cases hh : s.halted with
  | true =>
    obtain rfl := next_unique (step_of_halted hh) h
    exact ⟨c, r, d, step_of_halted hh, id, id⟩
  | false =>
    obtain ⟨u, hrule, rfl⟩ := step_cases hh h
    have hcycles : u.cycleCount = s.cycleCount := execWord_cycleCount hrule
    obtain ⟨r', d', hrule', hd⟩ := execWord_withHostOnly hrule c r d
    have hstep : step (s.withHostOnly c r d) = .next (u.withHostOnly c r' d').complete := step_of_execWord hh hrule'
    rw [hstep]
    cases hu : u.halted with
    | true =>
      rw [State.complete_of_halted hu, State.complete_of_halted (t := u.withHostOnly c r' d') hu]
      exact ⟨c, r', d', rfl, fun hc => hc.trans hcycles.symm, hd⟩
    | false =>
      rw [State.complete_of_not_halted hu, State.complete_of_not_halted (t := u.withHostOnly c r' d') hu]
      exact ⟨c + 1, r', d', rfl, fun hc => by rw [hc, ← hcycles]; rfl, hd⟩

/-- Settles O54: a step reads none of the three fields, so it leads to states that differ in them alone. -/
theorem hostOnlyFieldsNeverAffectExecution : Obligations.HostOnlyFieldsNeverAffectExecution := by
  intro s c r d
  obtain ⟨t, ht⟩ := step_answers s
  obtain ⟨c', r', d', hstep, -⟩ := step_withHostOnly ht c r d
  exact ⟨t, c', r', d', ht, hstep⟩

/-- Settles O10: a halted machine answers itself; and a step with another `running` differs from the step in that field
alone, which its result does not read. -/
theorem haltedStepChangesNothing : Obligations.HaltedStepChangesNothing := by
  refine ⟨fun s hh => ⟨step_of_halted hh, State.stepOp_of_halted hh⟩, fun s b => ?_⟩
  change (s.withHostOnly s.cycleCount b s.redrawPending).stepOp.2 = s.stepOp.2 ∧
    ∃ b', (s.withHostOnly s.cycleCount b s.redrawPending).stepOp.1 = { s.stepOp.1 with running := b' }
  cases hh : s.halted with
  | true =>
    rw [State.stepOp_of_halted hh, State.stepOp_of_halted (s := s.withHostOnly _ b _) hh]
    exact ⟨rfl, b, rfl⟩
  | false =>
    obtain ⟨t, ht⟩ := step_answers s
    obtain ⟨c', b', d', hstep, hc, hd⟩ := step_withHostOnly ht s.cycleCount b s.redrawPending
    rw [State.stepOp_of_step hh ht, State.stepOp_of_step (s := s.withHostOnly _ b _) hh hstep, hc rfl, hd rfl]
    exact ⟨rfl, b', rfl⟩

end Sys2Proof.Machine
end

section
/-! The invariant of every transition (10_state R41): the states that meet it, and that every step and every transaction keeps
it. -/

namespace Sys2Proof.Machine

/-! ## States that meet the invariant -/

/-- A machine that is not halted and records no fault meets the invariant when its memory is canonical. -/
theorem State.Inv.of_not_halted {t : State} (hwf : Memory.wf t.params.font t.memory) (hh : t.halted = false)
    (hf : t.fault = none) : t.Inv :=
  ⟨hwf, by simp [hh, hf], by simp [hh], fun r hr => by simp [hf] at hr⟩

/-- A machine that took a fault whose cause holds meets the invariant: PC and SP are as the cause found them. -/
theorem State.Inv.of_faultCause {s : State} {k : FaultKind} {w : Word} (hwf : Memory.wf s.params.font s.memory)
    (hk : FaultCause w s k) : (s.enterFault k w).Inv := by
  have hrecord : (s.enterFault k w).FaultRecordTrue := by
    intro r hr
    obtain rfl : FaultRecord.mk k s.pc w = r := Option.some.inj hr
    cases k <;> exact ⟨rfl, hk⟩
  exact ⟨hwf, by simp, fun _ => rfl, hrecord⟩

/-- The invariant reads memory, the control flags, the fault record, PC and SP alone. -/
theorem State.Inv.congr {s t : State} (h : s.Inv) (hwf : Memory.wf t.params.font t.memory) (hh : t.halted = s.halted)
    (hr : t.halted = true → t.running = false) (hf : t.fault = s.fault) (hpc : t.pc = s.pc) (hsp : t.sp = s.sp) :
    t.Inv := by
  obtain ⟨-, hiff, -, hrecord⟩ := h
  refine ⟨hwf, by rw [hh, hf]; exact hiff, hr, fun r hrec => ?_⟩
  rw [hpc, hsp]
  exact hrecord r (hf ▸ hrec)

/-- A state that meets the invariant and is not halted records no fault. -/
theorem State.Inv.fault_eq_none {s : State} (h : s.Inv) (hh : s.halted = false) : s.fault = none := by
  obtain ⟨-, hiff, -⟩ := h
  by_contra hne
  rw [hiff.mpr hne] at hh
  cases hh

/-- Settles O55: the initialized state lists no byte, is not halted and records no fault. -/
theorem resetMeetsInvariant : Obligations.ResetMeetsInvariant :=
  .of_not_halted reset_memory_wf rfl rfl

/-! ## Steps -/

/-- A step keeps memory in canonical form. -/
theorem step_wf {s t : State} (h : step s = .next t) (hwf : Memory.wf s.params.font s.memory) :
    Memory.wf t.params.font t.memory := by
  cases hh : s.halted with
  | true =>
    obtain rfl := next_unique (step_of_halted hh) h
    exact hwf
  | false =>
    obtain ⟨u, hu, rfl⟩ := step_cases hh h
    have hu' := execWord_wf hu hwf
    unfold State.complete
    split <;> exact hu'

/-- Every step keeps the invariant: one that completes records nothing, and one that faults records its cause. -/
theorem State.Inv.of_step {s t : State} (hs : s.Inv) (h : step s = .next t) : t.Inv := by
  cases hh : s.halted with
  | true =>
    obtain rfl := next_unique (step_of_halted hh) h
    exact hs
  | false =>
    have hwf : Memory.wf s.params.font s.memory := hs.1
    rcases step_outcomes hh h with ⟨hrun, hfault, -⟩ | ⟨k, hk, rfl⟩
    · exact .of_not_halted (step_wf h hwf) hrun (hfault.trans (hs.fault_eq_none hh))
    · exact .of_faultCause hwf hk

/-- Settles O56: a step answers, and its answer meets the invariant. -/
theorem stepKeepsInvariant : Obligations.StepKeepsInvariant := by
  intro s hs
  obtain ⟨t, ht⟩ := step_answers s
  exact ⟨t, ht, hs.of_step ht⟩

theorem State.Inv.of_run {count : Nat} {s t : State} (hs : s.Inv) (h : Host.Core.run Sys2Proof.core count s = .next t) :
    t.Inv := by
  induction count generalizing s with
  | zero => cases h; exact hs
  | succ count ih =>
    obtain ⟨u, hu⟩ := step_answers s
    rw [run_succ count hu] at h
    exact ih (hs.of_step hu) h

/-- The state after a host step is the state after the step. -/
theorem step_eq_stepOp (s : State) : step s = .next s.stepOp.1 := by
  cases hh : s.halted with
  | true => rw [State.stepOp_of_halted hh, step_of_halted hh]
  | false =>
    obtain ⟨t, ht⟩ := step_answers s
    rw [State.stepOp_of_step hh ht, ht]

/-- The state after a host's run of several steps is that of the core's run (40_execution_cycle R121). -/
theorem run_eq_stepN (count : Nat) (s : State) : Host.Core.run Sys2Proof.core count s = .next (s.stepN count).1 := by
  obtain ⟨-, -, -, -, hrun⟩ := stepNCountsSuccesses count s
  exact hrun

/-! ## Transactions -/

/-- What holds of a state and of every state an operation may accept holds after the operation. -/
theorem State.accept_keeps {P : State → Prop} {s : State} {o : Option State} (hs : P s) (ho : ∀ t, o = some t → P t) :
    P (s.accept o).1 := by
  cases o with
  | none => exact hs
  | some t => exact ho t rfl

/-- Every transaction keeps the invariant: the steps by the step lemma, and the others write no field it reads but memory,
inside its bounds, and `running`, on a machine that is not halted. -/
theorem State.Inv.of_transact {s : State} (hs : s.Inv) (tr : Transaction) : (transact tr s).1.Inv := by
  have ⟨hwf, _, hrunning, _⟩ := hs
  cases tr with
  | load image =>
    refine State.accept_keeps hs fun t ht => ?_
    obtain ⟨hl, rfl⟩ := State.load_eq_some ht
    have hwf' := s.loadBytes_wf 0x200 image (by change 0x200 + image.length ≤ 4096; omega) hwf
    rw [State.loadBytes_eq]
    exact hs.congr hwf' rfl hrunning rfl rfl rfl
  | reset => exact .of_not_halted ⟨.nil, by simp [transact, State.hardReset, State.reset]⟩ rfl rfl
  | step => exact hs.of_step (step_eq_stepOp s)
  | stepN count => exact hs.of_run (run_eq_stepN count s)
  | keyDown k | keyUp k =>
    refine State.accept_keeps hs fun t ht => ?_
    obtain ⟨_, rfl⟩ := State.setKey_eq_some ht
    exact hs.congr hwf rfl hrunning rfl rfl rfl
  | start =>
    refine State.accept_keeps hs fun t ht => ?_
    obtain ⟨hh, rfl⟩ := State.start_eq_some ht
    exact hs.congr hwf rfl (fun hhalt => by cases hh.symm.trans hhalt) rfl rfl rfl
  | stop => exact hs.congr hwf rfl (fun _ => rfl) rfl rfl rfl
  | tick | pollRedraw => exact hs.congr hwf rfl hrunning rfl rfl rfl
  | writeMemory a v =>
    refine State.accept_keeps hs fun t ht => ?_
    obtain ⟨ha, -, rfl⟩ := State.writeMemory_eq_some ht
    exact hs.congr (s.setByte_wf a _ ha hwf) rfl hrunning rfl rfl rfl
  | pokeRegister i v =>
    refine State.accept_keeps hs fun t ht => ?_
    obtain ⟨-, -, rfl⟩ := State.pokeRegister_eq_some ht
    exact hs.congr hwf rfl hrunning rfl rfl rfl
  | view q | disassemble a => exact hs

/-- What every transaction of a schedule keeps holds after the schedule. -/
theorem runSchedule_keeps {P : State → Prop} {l : List Transaction}
    (h : ∀ tr ∈ l, ∀ s, P s → P (transact tr s).1) {s : State} (hs : P s) : P (runSchedule l s) := by
  induction l generalizing s with
  | nil => exact hs
  | cons tr rest ih =>
    exact ih (fun tr' htr' => h tr' (List.mem_cons_of_mem _ htr')) (h tr List.mem_cons_self s hs)

/-- Settles O57: the initialized state meets the invariant, and every transaction keeps it. -/
theorem everyScheduleKeepsInvariant : Obligations.EveryScheduleKeepsInvariant :=
  ⟨fun tr _ hs => hs.of_transact tr,
    fun _ => runSchedule_keeps (fun tr _ _ hs => hs.of_transact tr) resetMeetsInvariant⟩

end Sys2Proof.Machine
end

section
/-! A halted machine until reset (10_state R32, 60_exceptions R266): what no transaction but reset changes. -/

namespace Sys2Proof.Machine

/-- The machine t is halted with the fault record, PC, I, stack, display and counter of s. -/
def HaltedAs (s t : State) : Prop :=
  t.halted = true ∧ t.fault = s.fault ∧ t.pc = s.pc ∧ t.i = s.i ∧ t.sp = s.sp ∧ t.stack = s.stack ∧
    t.display = s.display ∧ t.cycleCount = s.cycleCount

/-- Every transaction but reset leaves a halted machine halted as it was: a step and a start do nothing, and the others
write other fields. -/
theorem HaltedAs.of_transact {s t : State} (h : HaltedAs s t) {tr : Transaction} (hne : tr ≠ .reset) :
    HaltedAs s (transact tr t).1 := by
  have ⟨hh, _⟩ := h
  cases tr with
  | load image =>
    refine State.accept_keeps h fun u hu => ?_
    obtain ⟨-, rfl⟩ := State.load_eq_some hu
    rw [State.loadBytes_eq]
    exact h
  | reset => exact absurd rfl hne
  | step => rwa [transact, State.stepOp_of_halted hh]
  | stepN count => rwa [transact, State.stepN_of_halted hh]
  | keyDown k | keyUp k =>
    refine State.accept_keeps h fun u hu => ?_
    obtain ⟨_, rfl⟩ := State.setKey_eq_some hu
    exact h
  | start =>
    refine State.accept_keeps h fun u hu => ?_
    obtain ⟨_, rfl⟩ := State.start_eq_some hu
    exact h
  | writeMemory a v =>
    refine State.accept_keeps h fun u hu => ?_
    obtain ⟨-, -, rfl⟩ := State.writeMemory_eq_some hu
    exact h
  | pokeRegister i v =>
    refine State.accept_keeps h fun u hu => ?_
    obtain ⟨-, -, rfl⟩ := State.pokeRegister_eq_some hu
    exact h
  | tick | stop | pollRedraw | view q | disassemble a => exact h

/-- Settles O58: every transaction of the schedule keeps it. -/
theorem haltedUntilReset : Obligations.HaltedUntilReset := by
  intro l s hreset hh
  have hkept : HaltedAs s (runSchedule l s) :=
    runSchedule_keeps (P := HaltedAs s) (fun tr htr _ ht => ht.of_transact (ne_of_mem_of_not_mem htr hreset))
      ⟨hh, rfl, rfl, rfl, rfl, rfl, rfl, rfl⟩
  exact hkept

end Sys2Proof.Machine
end

section
/-! The writers of each field (10_state R39): every rule answers the state with the fields of its row written, and nothing
else. -/

namespace Sys2Proof.Machine

/-- An instruction that takes a fault: SYS always, CALL with a full stack, RET with an empty one (60_exceptions R261). -/
def TakesFault (s : State) (i : Instr) : Prop :=
  (∃ nnn, i = .sys nnn) ∨ ((∃ nnn, i = .call nnn) ∧ s.sp.val = 16) ∨ (i = .ret ∧ s.sp.val = 0)

/-- The instructions that write I and nothing else but PC (44_index_memory R200 to R204). -/
def LoadsIndex (i : Instr) : Prop :=
  (∃ nnn, i = .ldI nnn) ∨ (∃ x, i = .addI x) ∨ ∃ x, i = .ldF x

/-- The V registers of t are those of s, but for the ones the instruction writes. -/
def KeepsOtherV (i : Instr) (s t : State) : Prop :=
  ∀ y, writesV y i = false → t.readV y = s.readV y

/-- What the instructions of each row write (10_state R39): the state after, as an update of the state before. -/
inductive Writes (s : State) : Instr → State → Prop
  | fault {i : Instr} (k : FaultKind) (w : Word) : TakesFault s i → Writes s i (s.enterFault k w)
  | pc {i : Instr} (w : Word) : Writes s i { s with pc := w }
  | push (nnn : Addr12) (entries : Vector Word 16) (sp : Fin 17) (w : Word) :
    Writes s (.call nnn) { s with stack := entries, sp := sp, pc := w }
  | pop (sp : Fin 17) (w : Word) : Writes s .ret { s with sp := sp, pc := w }
  | registers {i : Instr} (v : Vector Byte 16) (w : Word) :
    KeepsOtherV i s { s with v := v } → Writes s i { s with v := v, pc := w }
  | draw (x : Nibble) (nn : Byte) (v : Vector Byte 16) (draws : Nat) (w : Word) :
    KeepsOtherV (.rnd x nn) s { s with v := v } → Writes s (.rnd x nn) { s with v := v, draws := draws, pc := w }
  | index {i : Instr} (a w : Word) : LoadsIndex i → Writes s i { s with i := a, pc := w }
  | digits (x : Nibble) (m : Memory) (w : Word) : Writes s (.ldB x) { s with memory := m, pc := w }
  | store (x : Nibble) (m : Memory) (a w : Word) : Writes s (.stRegs x) { s with memory := m, i := a, pc := w }
  | load (x : Nibble) (v : Vector Byte 16) (a w : Word) :
    KeepsOtherV (.ldRegs x) s { s with v := v } → Writes s (.ldRegs x) { s with v := v, i := a, pc := w }
  | clear (d : Display) (w : Word) : Writes s .cls { s with display := d, redrawPending := true, pc := w }
  | sprite (x y n : Nibble) (d : Display) (v : Vector Byte 16) (w : Word) :
    KeepsOtherV (.drw x y n) s { s with v := v } →
    Writes s (.drw x y n) { s with display := d, v := v, redrawPending := true, pc := w }
  | delay (x : Nibble) (b : Byte) (w : Word) : Writes s (.ldDtVx x) { s with dt := b, pc := w }
  | sound (x : Nibble) (b : Byte) (w : Word) : Writes s (.ldStVx x) { s with st := b, pc := w }

/-- A rule that writes one register and advances. -/
theorem Writes.of_writeV {s : State} {i : Instr} {x : Nibble} (b : Byte) (h : ∀ y, writesV y i = false → y ≠ x) :
    Writes s i (s.writeV x b).advance :=
  .registers _ _ fun y hy => (s.readV_writeV x y b).trans (if_neg (h y hy))

/-- A rule that writes a result and its flag and advances. -/
theorem Writes.of_writeResult {s : State} {i : Instr} {x : Nibble} (r f : Byte)
    (h : ∀ y, writesV y i = false → y ≠ x ∧ y ≠ vf) : Writes s i (s.writeResult x r f).advance := by
  refine .registers _ _ fun y hy => ?_
  obtain ⟨hx, hf⟩ := h y hy
  exact (s.readV_writeResult x y r f).trans (by rw [if_neg hf, if_neg hx])

theorem Writes.of_skipIf {s : State} {i : Instr} (b : Bool) : Writes s i (s.skipIf b) := by
  cases b <;> exact .pc _

/-- Every rule writes the fields of its row. -/
theorem exec_writes {i : Instr} {s t : State} (h : exec i s = .next t) : Writes s i t := by
  cases i
  case sys nnn => cases h; exact .fault _ _ (.inl ⟨nnn, rfl⟩)
  case ret =>
    rcases Nat.eq_zero_or_pos s.sp.val with hsp | hsp
    · obtain rfl := next_unique (exec_ret_of_zero s hsp) h
      exact .fault _ _ (.inr (.inr ⟨rfl, hsp⟩))
    · obtain rfl := next_unique (exec_ret_of_pos s hsp) h
      exact .pop _ _
  case call nnn =>
    rcases Nat.lt_or_eq_of_le (Nat.le_of_lt_succ s.sp.isLt) with hsp | hsp
    · obtain rfl := next_unique (exec_call_of_lt nnn s hsp) h
      exact .push nnn _ _ _
    · obtain rfl := next_unique (exec_call_of_full nnn s hsp) h
      exact .fault _ _ (.inr (.inl ⟨⟨nnn, rfl⟩, hsp⟩))
  case ldVxK x =>
    cases hsel : keySelect s.params.keywait s.key with
    | none =>
      obtain rfl := next_unique (exec_ldVxK_of_none hsel) h
      exact .pc s.pc
    | some k =>
      obtain rfl := next_unique (exec_ldVxK_of_some hsel) h
      exact .of_writeV _ (by simp [writesV])
  case stRegs x =>
    obtain rfl := next_unique (exec_stRegs_eq x s) h
    exact .store x _ _ _
  case ldRegs x =>
    obtain rfl := next_unique (exec_ldRegs_eq x s) h
    refine .load x _ _ _ fun y hy => ?_
    have hy' : ¬ y.toNat < blockLength x := by simpa [writesV, lt_blockLength] using hy
    exact (s.readV_afterLoad x y).trans (if_neg hy')
  case drw x y n =>
    cases h
    refine .sprite x y n _ _ _ fun z hz => ?_
    exact (s.readV_afterDraw x y n z).trans (if_neg (by simpa [writesV] using hz))
  case rnd x nn =>
    cases h
    refine .draw x nn _ _ _ fun y hy => ?_
    exact (s.readV_writeV x y _).trans (if_neg (by simpa [writesV] using hy))
  case ldI nnn => cases h; exact .index _ _ (.inl ⟨nnn, rfl⟩)
  case addI x => cases h; exact .index _ _ (.inr (.inl ⟨x, rfl⟩))
  case ldF x => cases h; exact .index _ _ (.inr (.inr ⟨x, rfl⟩))
  case ldB x => cases h; exact .digits x _ _
  case cls => cases h; exact .clear _ _
  case ldDtVx x => cases h; exact .delay x _ _
  case ldStVx x => cases h; exact .sound x _ _
  case jp | jpV0 => cases h; exact .pc _
  case seImm | sneImm | seReg | sneReg | skp | sknp => cases h; exact .of_skipIf _
  case ldImm | addImm | ldReg | ldVxDt => cases h; exact .of_writeV _ (by simp [writesV])
  all_goals cases h; exact .of_writeResult _ _ (by simp [writesV])

/-- A register that changes is one the instruction writes. -/
theorem KeepsOtherV.writesV_of_ne {i : Instr} {s t : State} (h : KeepsOtherV i s t) {y : Nibble}
    (hy : t.readV y ≠ s.readV y) : writesV y i = true := by
  by_contra hfalse
  exact hy (h y (Bool.eq_false_iff.mpr hfalse))

/-! ## The writers of each field -/

section Writers

variable {s t : State} {i : Instr} (h : Writes s i t)

include h

theorem Writes.memory_writers (hne : ∃ a, t.memRead a ≠ s.memRead a) : (∃ x, i = .ldB x) ∨ ∃ x, i = .stRegs x := by
  obtain ⟨a, ha⟩ := hne
  cases h
  case digits x _ _ => exact .inl ⟨x, rfl⟩
  case store x _ _ _ => exact .inr ⟨x, rfl⟩
  all_goals exact absurd rfl ha

theorem Writes.display_writers (hne : t.display ≠ s.display) : i = .cls ∨ ∃ x y n, i = .drw x y n := by
  cases h
  case clear => exact .inl rfl
  case sprite x y n _ _ _ _ => exact .inr ⟨x, y, n, rfl⟩
  all_goals exact absurd rfl hne

theorem Writes.redrawPending_writers (hne : t.redrawPending ≠ s.redrawPending) :
    (i = .cls ∨ ∃ x y n, i = .drw x y n) ∧ t.redrawPending = true := by
  cases h
  case clear => exact ⟨.inl rfl, rfl⟩
  case sprite x y n _ _ _ _ => exact ⟨.inr ⟨x, y, n, rfl⟩, rfl⟩
  all_goals exact absurd rfl hne

theorem Writes.v_writers (y : Nibble) (hne : t.readV y ≠ s.readV y) : writesV y i = true := by
  cases h
  case registers _ _ hv => exact hv.writesV_of_ne hne
  case draw _ _ _ _ _ hv => exact hv.writesV_of_ne hne
  case load _ _ _ _ hv => exact hv.writesV_of_ne hne
  case sprite _ _ _ _ _ _ hv => exact hv.writesV_of_ne hne
  all_goals exact absurd rfl hne

theorem Writes.i_writers (hne : t.i ≠ s.i) : (∃ nnn, i = .ldI nnn) ∨ (∃ x, i = .addI x) ∨ (∃ x, i = .ldF x) ∨
    (∃ x, i = .stRegs x) ∨ ∃ x, i = .ldRegs x := by
  cases h
  case index _ _ hi =>
    rcases hi with hi | hi | hi
    · exact .inl hi
    · exact .inr (.inl hi)
    · exact .inr (.inr (.inl hi))
  case store x _ _ _ => exact .inr (.inr (.inr (.inl ⟨x, rfl⟩)))
  case load x _ _ _ _ => exact .inr (.inr (.inr (.inr ⟨x, rfl⟩)))
  all_goals exact absurd rfl hne

theorem Writes.stack_writers (hne : t.stack ≠ s.stack) : ∃ nnn, i = .call nnn := by
  cases h
  case push nnn _ _ _ => exact ⟨nnn, rfl⟩
  all_goals exact absurd rfl hne

theorem Writes.sp_writers (hne : t.sp ≠ s.sp) : (∃ nnn, i = .call nnn) ∨ i = .ret := by
  cases h
  case push nnn _ _ _ => exact .inl ⟨nnn, rfl⟩
  case pop => exact .inr rfl
  all_goals exact absurd rfl hne

theorem Writes.dt_writers (hne : t.dt ≠ s.dt) : ∃ x, i = .ldDtVx x := by
  cases h
  case delay x _ _ => exact ⟨x, rfl⟩
  all_goals exact absurd rfl hne

theorem Writes.st_writers (hne : t.st ≠ s.st) : ∃ x, i = .ldStVx x := by
  cases h
  case sound x _ _ => exact ⟨x, rfl⟩
  all_goals exact absurd rfl hne

theorem Writes.flags_writers (hne : (t.running, t.halted, t.fault) ≠ (s.running, s.halted, s.fault)) :
    TakesFault s i := by
  cases h
  case fault _ _ hf => exact hf
  all_goals exact absurd rfl hne

theorem Writes.draws_writers (hne : t.draws ≠ s.draws) : ∃ x nn, i = .rnd x nn := by
  cases h
  case draw x nn _ _ _ _ => exact ⟨x, nn, rfl⟩
  all_goals exact absurd rfl hne

theorem Writes.key_eq : t.key = s.key := by
  cases h <;> rfl

theorem Writes.params_eq : t.params = s.params := by
  cases h <;> rfl

end Writers

/-- Settles O52: the writers of each field, from what every rule writes. -/
theorem writersOfEachField : Obligations.WritersOfEachField := by
  intro i s t h
  have hw := exec_writes h
  exact ⟨hw.memory_writers, hw.display_writers, hw.redrawPending_writers, hw.v_writers, hw.i_writers, hw.stack_writers,
    hw.sp_writers, hw.dt_writers, hw.st_writers, hw.key_eq, hw.flags_writers, exec_cycleCount h, hw.params_eq,
    hw.draws_writers⟩

end Sys2Proof.Machine
end

section
/-! The advance class of each row (40_execution_cycle R123): where PC goes, class by class. -/

namespace Sys2Proof.Machine

/-- The rows of class `two` advance by 2. -/
theorem exec_pc_of_two {i : Instr} {s t : State} (hc : advanceClass i = .two) (h : exec i s = .next t) :
    t.pc = s.pc + 2 := by
  cases i <;> cases hc
  case stRegs x => rw [exec_stRegs_eq] at h; cases h; rfl
  case ldRegs x => rw [exec_ldRegs_eq] at h; cases h; rfl
  all_goals cases h; rfl

/-- A latch named by a byte, as the condition of the key skips states it (42_skips R164). -/
theorem State.pressed_eq_decide (s : State) (b : Byte) :
    s.pressed b = decide (∃ k : Fin 16, k.val = b.toNat ∧ s.key.get k = true) := by
  rw [Bool.eq_iff_iff, s.pressed_iff, decide_eq_true_iff]

/-- The rows of class `skip` are the shared skip on their condition. -/
theorem exec_of_skip {i : Instr} (hc : advanceClass i = .skip) (s : State) :
    exec i s = .next (s.skipIf (skipTaken s i)) := by
  cases i <;> cases hc
  case skp x => rw [exec_skp, s.pressed_eq_decide]; rfl
  case sknp x => rw [exec_sknp, s.pressed_eq_decide, ← decide_not]; rfl
  all_goals rfl

/-- The row of class `stay` waits for a key. -/
theorem exec_pc_of_stay {i : Instr} {s t : State} (hc : advanceClass i = .stay) (h : exec i s = .next t) :
    t.pc = s.pc + (if ∃ k : Fin 16, s.key.get k = true then 2 else 0) := by
  cases i <;> cases hc
  case ldVxK x =>
  split_ifs with hkey
  · obtain ⟨low, -, hsel⟩ := keySelect_of_pressed (table := s.params.keywait) hkey
    obtain rfl := next_unique (exec_ldVxK_of_some hsel) h
    rfl
  · have hnone : ∀ k : Fin 16, s.key.get k = false := by simpa using hkey
    obtain rfl := next_unique (exec_ldVxK_of_none (keySelect_of_none hnone)) h
    exact (BitVec.add_zero _).symm

/-- The rows of class `set`. -/
theorem advanceClass_eq_set (i : Instr) : advanceClass i = .set ↔
    i = .ret ∨ (∃ nnn, i = .jp nnn) ∨ (∃ nnn, i = .call nnn) ∨ ∃ nnn, i = .jpV0 nnn := by
  cases i <;> simp [advanceClass]

/-- The row of class `none` is SYS, which leaves PC. -/
theorem exec_pc_of_none {i : Instr} {s t : State} (hc : advanceClass i = .none) (h : exec i s = .next t) :
    t.pc = s.pc := by
  cases i <;> cases hc
  case sys nnn => cases h; rfl

/-- An instruction that takes a fault leaves PC (60_exceptions R263). -/
theorem exec_pc_of_fault {i : Instr} {s t : State} (h : exec i s = .next t) (hs : s.halted = false)
    (ht : t.halted = true) : t.pc = s.pc := by
  rcases exec_fault_cases h with ⟨hh, -⟩ | ⟨_, -, rfl⟩ | ⟨_, -, -, rfl⟩ | ⟨-, -, rfl⟩
  · rw [hh, hs] at ht; cases ht
  · rfl
  · rfl
  · rfl

/-- Settles O53: where PC goes in each class, and the target of each row of class `set`. -/
theorem advanceClassOfEachRow : Obligations.AdvanceClassOfEachRow := by
  intro i s
  obtain ⟨t, ht⟩ := exec_answers i s
  refine ⟨t, ht, fun hc => exec_pc_of_two hc ht, fun hc => ?_, fun hc => exec_pc_of_stay hc ht, advanceClass_eq_set i,
    ?_, ?_, ?_, ?_, fun hc => exec_pc_of_none hc ht, exec_pc_of_fault ht⟩
  · obtain rfl := next_unique (exec_of_skip hc s) ht
    rw [State.skipIf_pc]; split <;> rfl
  · rintro rfl hsp
    obtain rfl := next_unique (exec_ret_of_pos s hsp) ht
    rfl
  · rintro nnn rfl
    obtain rfl := next_unique (jpSetsPc nnn s) ht
    rfl
  · rintro nnn rfl hsp
    obtain rfl := next_unique (exec_call_of_lt nnn s hsp) ht
    rfl
  · rintro nnn rfl
    obtain rfl := next_unique (jpV0AddsV0 nnn s) ht
    rfl

end Sys2Proof.Machine
end
